-- ==== Sys2Proof/Word.lean ====
section
/-!
DEFINITION. The word types of CORE, each a bit vector of the width the spec fixes (00_scope R6, R8 to R10, R12;
20_memory R30; 30_encoding R47). Every value is unsigned (R12, R64).
-/

namespace Sys2Proof

/-- A stored chain word, a key word, `WDATA` or `RDATA`: 64 bits (R6 `KW`, `DW`). -/
abbrev Word64 := BitVec 64

/-- A block word as a value: 40 bits (R6 `VW`). -/
abbrev Val40 := BitVec 40

/-- The round sum: 48 bits (R6 `SW`). -/
abbrev Sum48 := BitVec 48

/-- A command word: 16 bits (R47). -/
abbrev CmdWord := BitVec 16

/-- A register number: 8 bits (R30, R48). -/
abbrev RegNo := BitVec 8

/-- A glyph, a code point of 21 bits (R10 `GW`). -/
abbrev Glyph := BitVec 21

end Sys2Proof
end

