-- ==== Sys2Proof/Config.lean ====
section
/-!
DEFINITION. The parameters of the implementation (00_scope R6 to R11).
The ones this hardware gives a value are plain constants; `DELTA` and the three open parameters are fields of
the record `Config`, which the model takes as an argument and assumes nothing of.
-/

namespace Sys2Proof

/-- What an instance of the hardware fixes for its life (10_state R14) and the model takes as an argument (R7, R11). -/
structure Config where
  /-- `DELTA`, the round-sum increment (R7). The literal is unaudited (91 N8; log entry 6: UNVERIFIED). -/
  delta    : Val40 := 0x9E38538A49#40
  /-- `KEY_REF[0..3]`, the reset value of the key registers (R11). -/
  keyRef   : Vector Word64 4
  /-- `CHAIN_REF[0..13]`, the reset value of the chain buffer (R11). -/
  chainRef : Vector Word64 14
  /-- `GT[0..55]`, the glyph ROM (R11, R22). -/
  gt       : Vector Glyph 56
  deriving DecidableEq, Repr

/-- `NMAX`, the capacity of the chain buffer in blocks (R9). -/
abbrev Config.nmax : Nat := 7

/-- `GLEN`, the number of entries of the glyph table (R10). -/
abbrev Config.glen : Nat := 56

/-- `ROUNDS_REF`, the reset value of `ROUNDS` (R8). -/
def Config.roundsRef : BitVec 32 := 32#32

/-- `NBLK_REF`, the reset value of `NBLK` (R9). -/
def Config.nblkRef : BitVec 3 := 7#3

/-- `SENTINEL`, the code point of `?` (R10; log entry 7: UNVERIFIED, the spec's own general knowledge G1). -/
def Config.sentinel : Glyph := 0x3F#21

/-- `NEWLINE` (R10; log entry 7: UNVERIFIED, the spec's own general knowledge G2). -/
def Config.newline : Glyph := 0x0A#21

/-- The reference key. No source gives its value (R11, 91 N1; log entry 1): it has no body, so nothing can be proved of it. -/
opaque Config.keyRefOpen : Vector Word64 4

/-- The reference chain. No source gives its value (R11, 91 N2; log entry 1). -/
opaque Config.chainRefOpen : Vector Word64 14

/-- The glyph table. No source gives its entries (R11, 91 N3; log entry 1). -/
opaque Config.gtOpen : Vector Glyph 56

/-- The configuration of this hardware: the default `DELTA`, and the open parameters left open. -/
def Config.hw : Config :=
  { keyRef := Config.keyRefOpen, chainRef := Config.chainRefOpen, gt := Config.gtOpen }

end Sys2Proof
end

