-- ==== Sys2Proof/Syntax.lean ====
section
/-!
DEFINITION. The ten commands of CORE (30_encoding R51), one constructor per row of `opcode_table.json`, with the
operands R48 and R49 give them: `REG` for `WR` and `RD`, `WDATA` for `WR` alone. The operands of every other
command are named registers and are not in the command at all (R50).
-/

namespace Sys2Proof

/-- A command CORE can perform. -/
inductive Instr where
  /-- `NOP` (R59). -/
  | nop
  /-- `WR reg, value` (R60): `REG`, any of the 256 numbers, and `WDATA`. -/
  | wr (reg : RegNo) (data : Word64)
  /-- `RD reg` (R61). -/
  | rd (reg : RegNo)
  /-- `ENC` (R69). -/
  | enc
  /-- `DEC` (R70). -/
  | dec
  /-- `DCH` (R76). -/
  | dch
  /-- `REN` (R82). -/
  | ren
  /-- `RUN` (R85). -/
  | run
  /-- `CLRE` (R87). -/
  | clre
  /-- `RST` (R88). -/
  | rst
  deriving DecidableEq, Repr

end Sys2Proof
end

