-- ==== Sys2Proof/WellFormed.lean ====
section
/-!
DEFINITION. Which commands are well formed. The operand types of `Instr` hold exactly the values the formats allow
(R49: `REG` "any value", `WDATA` 64 bits), so the check is on the 16-bit command word: a word is legal if it selects a row of
the opcode table by mask and match (30_encoding R51, R52), and illegal otherwise (R53).
-/

namespace Sys2Proof

/-- What the host presents: the pair `(CMD, WDATA)` (R47). -/
structure Command where
  cmd   : CmdWord
  wdata : Word64
  deriving DecidableEq, Repr

/-- One row of the opcode table (R51). -/
structure OpcodeRow where
  mnemonic : String
  pattern  : CmdWord
  mask     : CmdWord
  deriving DecidableEq, Repr

/-- The opcode table (R51), in its order. -/
def opcodeTable : List OpcodeRow :=
  [ ⟨"NOP",  0x0000#16, 0xFFFF#16⟩, ⟨"WR",  0x0100#16, 0xFF00#16⟩, ⟨"RD",   0x0200#16, 0xFF00#16⟩,
    ⟨"ENC",  0x1000#16, 0xFFFF#16⟩, ⟨"DEC", 0x1100#16, 0xFFFF#16⟩, ⟨"DCH",  0x1200#16, 0xFFFF#16⟩,
    ⟨"REN",  0x1300#16, 0xFFFF#16⟩, ⟨"RUN", 0x1400#16, 0xFFFF#16⟩, ⟨"CLRE", 0x1E00#16, 0xFFFF#16⟩,
    ⟨"RST",  0x1F00#16, 0xFFFF#16⟩ ]

/-- "A command word selects a row when `CMD AND mask = match`" (R51). -/
def OpcodeRow.selects (row : OpcodeRow) (w : CmdWord) : Bool :=
  w &&& row.mask == row.pattern

/-- A word that selects some row is legal (R52); every other word is illegal (R53). -/
def legalWord (w : CmdWord) : Bool :=
  opcodeTable.any fun row => row.selects w

end Sys2Proof
end

