-- ==== Sys2Proof/Decode.lean ====
section
/-!
DEFINITION. Decoding a command (30_encoding R47 to R53), total on all `2^16` words, refusing by name; and the
encoder, written from the same rows. Decoding reads nothing but the 16 bits of `CMD` (R52).
-/

namespace Sys2Proof

/-- The two kinds of illegal word (R53). -/
inductive DecodeError where
  /-- The opcode is none of the ten. -/
  | undefinedOpcode (opc : BitVec 8)
  /-- The opcode is of format `N` and `REG` is not zero. -/
  | regNotZero (opc : BitVec 8) (reg : RegNo)
  deriving DecidableEq, Repr

/-- `OPC = CMD[15:8]` (R48). -/
def opcField (w : CmdWord) : BitVec 8 := w.extractLsb' 8 8

/-- `REG = CMD[7:0]` (R48). -/
def regField (w : CmdWord) : RegNo := w.extractLsb' 0 8

/-- Format `N`: `REG` is fixed at zero (R49, R53). -/
def formatN (w : CmdWord) (i : Instr) : Except DecodeError Instr :=
  if regField w = 0#8 then .ok i else .error (.regNotZero (opcField w) (regField w))

/-- The command a pair `(CMD, WDATA)` stands for, or why its word is illegal (R51 to R53). -/
def decode (c : Command) : Except DecodeError Instr :=
  match (opcField c.cmd).toNat with
  | 0x00 => formatN c.cmd .nop
  | 0x01 => .ok (.wr (regField c.cmd) c.wdata)
  | 0x02 => .ok (.rd (regField c.cmd))
  | 0x10 => formatN c.cmd .enc
  | 0x11 => formatN c.cmd .dec
  | 0x12 => formatN c.cmd .dch
  | 0x13 => formatN c.cmd .ren
  | 0x14 => formatN c.cmd .run
  | 0x1E => formatN c.cmd .clre
  | 0x1F => formatN c.cmd .rst
  | _ => .error (.undefinedOpcode (opcField c.cmd))

/-- `OPC` of a command (R51). -/
def Instr.opc : Instr → BitVec 8
  | .nop => 0x00#8
  | .wr _ _ => 0x01#8
  | .rd _ => 0x02#8
  | .enc => 0x10#8
  | .dec => 0x11#8
  | .dch => 0x12#8
  | .ren => 0x13#8
  | .run => 0x14#8
  | .clre => 0x1E#8
  | .rst => 0x1F#8

/-- `REG` of a command: its register number, zero in format `N` (R48, R49). -/
def Instr.regBits : Instr → RegNo
  | .wr reg _ => reg
  | .rd reg => reg
  | .nop | .enc | .dec | .dch | .ren | .run | .clre | .rst => 0#8

/-- The write data of a command; "for a command that ignores `WDATA` the listing shows zeros" (R57). -/
def Instr.wdata : Instr → Word64
  | .wr _ data => data
  | .nop | .rd _ | .enc | .dec | .dch | .ren | .run | .clre | .rst => 0#64

/-- The encoder: `CMD = OPC ++ REG` with the write data (R47, R48). -/
def encode (i : Instr) : Command :=
  { cmd := i.opc ++ i.regBits, wdata := i.wdata }

/-- The pair that a number `w` of `nbits` bits stands for: bits 15 to 0 are `CMD` and the bits from 16 on are `WDATA`
(log entry 10: DESIGN CHOICE, the spec gives the pair no common bit numbering). Bits at or above `nbits` count as zero. -/
def commandOfBits (nbits w : Nat) : Command :=
  { cmd := BitVec.ofNat 16 (w % 2 ^ nbits), wdata := BitVec.ofNat 64 (w % 2 ^ nbits / 2 ^ 16) }

/-- The instruction the decoder reads from bits numbered as the opcode table numbers them. -/
def decodeTableWord (nbits w : Nat) : Option Instr :=
  match decode (commandOfBits nbits w) with
  | .ok i => some i
  | .error _ => none

end Sys2Proof
end

