-- ==== Sys2Proof/Machine/State.lean ====
section
/-!
DEFINITION. The state of CORE (10_state R14 to R28), as plain data, and its value at power-on reset (R27, R101, R102).
-/

namespace Sys2Proof.Machine

/-- The four causes of a command fault (60_exceptions R89). -/
inductive Cause where
  | illegalCommand
  | badRegister
  | readOnly
  | badValue
  deriving DecidableEq, Repr

/-- `STATUS` (10_state R25) by its fields. The bits R25 lists as zero are held nowhere, so they read as zero in every state
(log entry 11: DEDUCED). -/
structure Status where
  /-- `ERR`, bit 0: a command fault has been recorded and not yet cleared. -/
  err   : Bool
  /-- `CAUSE`, bits 7:4. -/
  cause : BitVec 4
  /-- `FCMD`, bits 31:16. -/
  fcmd  : CmdWord
  deriving DecidableEq, Repr

/-- CORE's answer to one command: `(RDATA, RERR)` (30_encoding R47). -/
structure Response where
  rdata : Word64
  rerr  : Bool
  deriving DecidableEq, Repr

/-- The machine: the architectural state of R14 (`key` to `status`), then what R14 sets beside the state and a step must see
(`cfg`, `cmds`, `out`), then the model's own record of the responses (`resps`). -/
structure State where
  /-- `KEY[0..3]` (R15). -/
  key    : Vector Word64 4
  /-- `V0` (R16). -/
  v0     : Val40
  /-- `V1` (R16). -/
  v1     : Val40
  /-- `SUM` (R17). -/
  sum    : Sum48
  /-- `ROUNDS` (R18). -/
  rounds : BitVec 32
  /-- `NBLK` (R19). -/
  nblk   : BitVec 3
  /-- `CHW[0..13]` (R21). -/
  chw    : Vector Word64 14
  /-- `STATUS` (R25). -/
  status : Status
  /-- The output trace `OUT`, oldest first (R23). -/
  out    : List Glyph
  /-- The configuration, which no step changes (R14; log entry 4: DESIGN CHOICE). -/
  cfg    : Config
  /-- The commands the host has issued and CORE has not yet taken, oldest first (R14, R24; log entry 2: DESIGN CHOICE). -/
  cmds   : List Command
  /-- The responses given so far, oldest first (R112; log entry 3: DESIGN CHOICE). -/
  resps  : List Response
  deriving DecidableEq, Repr

/-- What stops the machine: nothing. A command fault is an entry that the spec describes (R90) and is a next state; every
command terminates for every state (R111) and CORE has no halt (R112). Raised by nobody, so neither safe nor unsafe. -/
inductive Fault where
  deriving DecidableEq, Repr

/-- Why a meaning may refuse. -/
inductive Refusal where
  /-- The instruction has no meaning yet. Raised only by a dispatch arm rejected by name, of which there is none; safe. -/
  | notModelled (mnemonic : String)
  deriving DecidableEq, Repr

/-- The state after power-on reset of hardware configured as `c` (R27, R102), with no command issued and none answered. -/
def State.powerOn (c : Config) : State :=
  { key := c.keyRef, v0 := 0#40, v1 := 0#40, sum := 0#48, rounds := Config.roundsRef, nblk := Config.nblkRef,
    chw := c.chainRef, status := { err := false, cause := 0#4, fcmd := 0#16 },
    out := [], cfg := c, cmds := [], resps := [] }

/-- The state right after reset of this hardware. -/
def State.reset : State := State.powerOn Config.hw

end Sys2Proof.Machine
end

