-- ==== Sys2Proof/Machine/Flags.lean ====
section
/-!
DEFINITION. `STATUS`, CORE's only flag register: its word (10_state R25), recording a fault (60_exceptions R90) and clearing (44_system R87).
-/

namespace Sys2Proof.Machine

/-- The cause code (R89). -/
def Cause.code : Cause → BitVec 4
  | .illegalCommand => 1#4
  | .badRegister => 2#4
  | .readOnly => 3#4
  | .badValue => 4#4

/-- `STATUS` as it is read: bits 63:32 zero, `FCMD` in 31:16, 15:8 zero, `CAUSE` in 7:4, 3:1 zero, `ERR` in 0 (R25). -/
def Status.word (st : Status) : Word64 :=
  0#32 ++ st.fcmd ++ 0#8 ++ st.cause ++ 0#3 ++ BitVec.ofBool st.err

/-- `STATUS` with no fault recorded (R25, R87). -/
def Status.clear : Status := { err := false, cause := 0#4, fcmd := 0#16 }

/-- `STATUS` after a command fault: recorded if none is, left exactly as it is otherwise ("first fault wins", R90). -/
def Status.record (st : Status) (cause : Cause) (cmd : CmdWord) : Status :=
  if st.err then st else { err := true, cause := cause.code, fcmd := cmd }

end Sys2Proof.Machine
end

