-- ==== Sys2Proof/Machine/Operands.lean ====
section
/-!
DEFINITION. The operand forms: which cell a register number names (10_state R26, 20_memory R30, R31), what each cell reads as
(R37), and what a write to each cell does (R38). The fields of words that the operations take are here too (R12, R33, R65).
-/

namespace Sys2Proof.Machine

/-- The cells of the register space, one per mapped number (R26). -/
inductive RegCell where
  | key (i : Fin 4)
  | v0
  | v1
  | sum
  | rounds
  | nblk
  | status
  | delta
  | glen
  | nmax
  | sent
  | chw (k : Fin 14)
  | gt (b : Fin 56)
  deriving DecidableEq, Repr

/-- The cell a register number names, or none if the number is unmapped (R26, R31). -/
def regCell (r : RegNo) : Option RegCell :=
  if h : r.toNat < 0x04 then some (.key ⟨r.toNat, h⟩)
  else if r = 0x04#8 then some .v0
  else if r = 0x05#8 then some .v1
  else if r = 0x06#8 then some .sum
  else if r = 0x07#8 then some .rounds
  else if r = 0x08#8 then some .nblk
  else if r = 0x09#8 then some .status
  else if r = 0x0A#8 then some .delta
  else if r = 0x0B#8 then some .glen
  else if r = 0x0C#8 then some .nmax
  else if r = 0x0D#8 then some .sent
  else if h : 0x20 ≤ r.toNat ∧ r.toNat < 0x2E then some (.chw ⟨r.toNat - 0x20, by omega⟩)
  else if h : 0x40 ≤ r.toNat ∧ r.toNat < 0x78 then some (.gt ⟨r.toNat - 0x40, by omega⟩)
  else none

/-- The value of a cell, zero-extended to 64 bits (R26, R37). -/
def readCell (s : State) : RegCell → Word64
  | .key i => s.key[i]
  | .v0 => s.v0.setWidth 64
  | .v1 => s.v1.setWidth 64
  | .sum => s.sum.setWidth 64
  | .rounds => s.rounds.setWidth 64
  | .nblk => s.nblk.setWidth 64
  | .status => s.status.word
  | .delta => s.cfg.delta.setWidth 64
  | .glen => BitVec.ofNat 64 Config.glen
  | .nmax => BitVec.ofNat 64 Config.nmax
  | .sent => Config.sentinel.setWidth 64
  | .chw k => s.chw[k]
  | .gt b => s.cfg.gt[b].setWidth 64

/-- `v[39:0]` of a 64-bit word (R12, R38, R76). -/
def low40 (v : Word64) : Val40 := v.setWidth 40

/-- Writing a value to a cell: the new state, or the cause of the command fault (R38). `V0` and `V1` truncate; `ROUNDS` and
`NBLK` refuse a value they cannot hold; the constants, `SUM` and `STATUS` are read-only. -/
def writeCell (s : State) (v : Word64) : RegCell → Except Cause State
  | .key i => .ok { s with key := s.key.set i v }
  | .v0 => .ok { s with v0 := low40 v }
  | .v1 => .ok { s with v1 := low40 v }
  | .rounds => if v.toNat ≥ 2 ^ 32 then .error .badValue else .ok { s with rounds := v.setWidth 32 }
  | .nblk => if v.toNat > 7 then .error .badValue else .ok { s with nblk := v.setWidth 3 }
  | .chw k => .ok { s with chw := s.chw.set k v }
  | .sum | .status | .delta | .glen | .nmax | .sent | .gt _ => .error .readOnly

/-- `byte(w, j) = w[8j+7:8j]` (R13, R33). -/
def byteOf (w : Word64) (j : Nat) : BitVec 8 := w.extractLsb' (8 * j) 8

/-- `KSEL_LO(s) = KEY[s[1:0]]` (R65). -/
def keySelLo (key : Vector Word64 4) (s : Sum48) : Word64 := key[(s.extractLsb' 0 2).toFin]

/-- `KSEL_HI(s) = KEY[s[12:11]]` (R65). -/
def keySelHi (key : Vector Word64 4) (s : Sum48) : Word64 := key[(s.extractLsb' 11 2).toFin]

/-- The blocks `0 .. n-1` of the chain buffer, in ascending order (R19, R21); there are at most `NMAX`. -/
def blocksBelow (n : Nat) : List (Fin 7) := [0, 1, 2, 3, 4, 5, 6].filter fun i => i.val < n

/-- Word `wd` of block `i` is `CHW[2i + wd]` (R21). -/
def chainIx (i : Fin 7) (wd : Fin 2) : Fin 14 := ⟨2 * i.val + wd.val, by omega⟩

end Sys2Proof.Machine
end

