-- ==== Sys2Proof/Machine/Ops.lean ====
section
/-!
DEFINITION. The operations every meaning shares: answering a command (30_encoding R47), `RegRead` and `RegWrite` (20_memory
R37, R38), emitting glyphs (R23), taking a command fault (60_exceptions R90), reset by command (44_system R88), and taking the next command of
the host's stream.
-/

namespace Sys2Proof.Machine

/-- Answer the command with `(RDATA, RERR)` (R47). -/
def State.respond (s : State) (rdata : Word64) (rerr : Bool) : State :=
  { s with resps := s.resps ++ [{ rdata := rdata, rerr := rerr }] }

/-- The answer of a command that completes and returns no value: `(0, 0)` (R13, R47). -/
def State.completed (s : State) : State := s.respond 0#64 false

/-- `raise CmdFault(cause)` by the command whose word is `cmd` (R90): nothing changes but `STATUS`, and the answer is `(0, 1)`. -/
def State.cmdFault (s : State) (cause : Cause) (cmd : CmdWord) : State :=
  { s with status := s.status.record cause cmd }.respond 0#64 true

/-- What stands where an ISA has its return from trap (R87, R95): `STATUS <- 0`. -/
def State.clearFault (s : State) : State := { s with status := Status.clear }

/-- `RegRead(r)` (R37). -/
def regRead (s : State) (r : RegNo) : Except Cause Word64 :=
  match regCell r with
  | some c => .ok (readCell s c)
  | none => .error .badRegister

/-- `RegWrite(r, v)` (R38), its checks in the order of R91. -/
def regWrite (s : State) (r : RegNo) (v : Word64) : Except Cause State :=
  match regCell r with
  | some c => writeCell s v c
  | none => .error .badRegister

/-- `Emit` of a sequence of glyphs, in order (R13, R23). -/
def State.emit (s : State) (gs : List Glyph) : State := { s with out := s.out ++ gs }

/-- Every piece of state at its reset value, and nothing else changed: the configuration is constant, `OUT` keeps what was
emitted, and the host's stream and the responses given are not state (R88, R101). -/
def State.restore (s : State) : State :=
  { State.powerOn s.cfg with out := s.out, cmds := s.cmds, resps := s.resps }

/-- The next command of the host's stream and the state with it taken, or none when the host has issued no command (R42, R43). -/
def State.take (s : State) : Option (Command × State) :=
  match s.cmds with
  | [] => none
  | c :: rest => some (c, { s with cmds := rest })

/-- A word that selects no row takes the fault `IllegalCommand` (R52, R53). -/
def State.illegal (s : State) (c : Command) : State := s.cmdFault .illegalCommand c.cmd

/-- The stream with one command placed before all others, so that it is the next one taken. -/
def State.issueFirst (s : State) (c : Command) : State := { s with cmds := c :: s.cmds }

end Sys2Proof.Machine
end

