-- ==== Sys2Proof/Machine/BlockTransform.lean ====
section
/-!
DEFINITION. The Block Transform Engine and its commands `ENC` and `DEC` (41_block_transform R62 to R75). All arithmetic is
unsigned and wraps at the width of its bit vector, which is the mask the spec writes after each step (R64).
-/

namespace Sys2Proof.Machine

/-- The registers a round works on: `V0`, `V1` and `SUM`. -/
structure Engine where
  v0  : Val40
  v1  : Val40
  sum : Sum48
  deriving DecidableEq, Repr

/-- The round function `F(x, s, k)` (R62). -/
def roundF (x : Val40) (s : Sum48) (k : Word64) : Val40 :=
  let a := x <<< 4
  let b := x >>> 5
  let c := (a ^^^ b) + x
  let d := BitVec.ofNat 40 (s.toNat + k.toNat)
  c ^^^ d

/-- The source's `F64` on 64-bit storage, kept for reference (R63, 90_conflicts C2). No command uses it. -/
def roundF64 (x : Word64) (s : Sum48) (k : Word64) : Word64 :=
  (((x <<< 4) ^^^ ((x.setWidth 40).setWidth 64 >>> 5)) + x) ^^^ (s.setWidth 64 + k)

/-- `mask_48(SUM + DELTA)` (R66). -/
def advance (delta : Val40) (s : Sum48) : Sum48 := s + delta.setWidth 48

/-- `mask_48(SUM - DELTA)` (R66). -/
def retreat (delta : Val40) (s : Sum48) : Sum48 := s - delta.setWidth 48

/-- `EncRound` (R67): the low selector with the sum before the advance, the high one with the sum after (R65, 90_conflicts C3). -/
def encRound (delta : Val40) (key : Vector Word64 4) (e : Engine) : Engine :=
  let v0 := e.v0 + roundF e.v1 e.sum (keySelLo key e.sum)
  let sum := advance delta e.sum
  let v1 := e.v1 + roundF v0 sum (keySelHi key sum)
  { v0 := v0, v1 := v1, sum := sum }

/-- `DecRound` (R68). -/
def decRound (delta : Val40) (key : Vector Word64 4) (e : Engine) : Engine :=
  let v1 := e.v1 - roundF e.v0 e.sum (keySelHi key e.sum)
  let sum := retreat delta e.sum
  let v0 := e.v0 - roundF v1 sum (keySelLo key sum)
  { v0 := v0, v1 := v1, sum := sum }

/-- `Encipher`: `SUM <- 0`, then `rounds` forward rounds (R69). -/
def encipher (delta : Val40) (key : Vector Word64 4) (rounds : BitVec 32) (v0 v1 : Val40) : Engine :=
  Nat.iterate (encRound delta key) rounds.toNat { v0 := v0, v1 := v1, sum := 0#48 }

/-- The sum a decipher starts from, `zext_48(mask_40(DELTA * ROUNDS))`: 40 bits, not 48 (R64 (e), R71). -/
def decStart (delta : Val40) (rounds : BitVec 32) : Sum48 :=
  (BitVec.ofNat 40 (delta.toNat * rounds.toNat)).setWidth 48

/-- `Decipher`: the masked initial sum, then `rounds` inverse rounds (R70). -/
def decipher (delta : Val40) (key : Vector Word64 4) (rounds : BitVec 32) (v0 v1 : Val40) : Engine :=
  Nat.iterate (decRound delta key) rounds.toNat { v0 := v0, v1 := v1, sum := decStart delta rounds }

/-- The state with the engine's registers put back. -/
def State.withEngine (s : State) (e : Engine) : State := { s with v0 := e.v0, v1 := e.v1, sum := e.sum }

/-- `ENC` (R69). -/
def execEnc (s : State) : Host.Outcome State Fault Refusal :=
  .next (s.withEngine (encipher s.cfg.delta s.key s.rounds s.v0 s.v1)).completed

/-- `DEC` (R70). -/
def execDec (s : State) : Host.Outcome State Fault Refusal :=
  .next (s.withEngine (decipher s.cfg.delta s.key s.rounds s.v0 s.v1)).completed

end Sys2Proof.Machine
end

