-- ==== Sys2Proof/Machine/Chain.lean ====
section
/-!
DEFINITION. The chain decryptor and its command `DCH` (42_chain_decrypt R76 to R79). No data goes from one block to
another (R78, 90_conflicts C4).
-/

namespace Sys2Proof.Machine

/-- One turn of the loop of R76: load the low 40 bits of block `i`, decipher, store both words zero-extended. -/
def decipherBlock (s : State) (i : Fin 7) : State :=
  let e := decipher s.cfg.delta s.key s.rounds (low40 s.chw[chainIx i 0]) (low40 s.chw[chainIx i 1])
  { s.withEngine e with
    chw := (s.chw.set (chainIx i 0) (e.v0.setWidth 64)).set (chainIx i 1) (e.v1.setWidth 64) }

/-- The operation of `DCH`: blocks `NBLK-2` down to `0`, none when `NBLK` is 0 or 1 (R76, R77). -/
def decryptChain (s : State) : State :=
  (blocksBelow (s.nblk.toNat - 1)).reverse.foldl decipherBlock s

/-- `DCH` (R76). -/
def execDch (s : State) : Host.Outcome State Fault Refusal := .next (decryptChain s).completed

end Sys2Proof.Machine
end

