-- ==== Sys2Proof/Machine/GlyphRender.lean ====
section
/-!
DEFINITION. The glyph decoder and serialiser, commands `REN` and `RUN` (43_glyph_render R80 to R86).
-/

namespace Sys2Proof.Machine

/-- `Glyph(b)`: the table's entry below `GLEN`, the sentinel at or above it (R80). -/
def glyphOf (gt : Vector Glyph 56) (b : BitVec 8) : Glyph :=
  if h : b.toNat < Config.glen then gt[b.toNat] else Config.sentinel

/-- The glyphs of one word: byte 7 down to byte 0, zero bytes skipped (R34, R80, R81). -/
def glyphsOfWord (gt : Vector Glyph 56) (w : Word64) : List Glyph :=
  [7, 6, 5, 4, 3, 2, 1, 0].filterMap fun j =>
    if byteOf w j = 0#8 then none else some (glyphOf gt (byteOf w j))

/-- The glyphs of block `i`: its `v0`, then its `v1` (R81). -/
def glyphsOfBlock (s : State) (i : Fin 7) : List Glyph :=
  glyphsOfWord s.cfg.gt s.chw[chainIx i 0] ++ glyphsOfWord s.cfg.gt s.chw[chainIx i 1]

/-- What one `REN` emits: the blocks `0 .. NBLK-1` in ascending order, then one newline (R82, R83). -/
def chainGlyphs (s : State) : List Glyph :=
  (blocksBelow s.nblk.toNat).flatMap (glyphsOfBlock s) ++ [Config.newline]

/-- The operation of `REN` (R82): it changes `OUT` and nothing else (R84). -/
def renderChain (s : State) : State := s.emit (chainGlyphs s)

/-- `REN` (R82). -/
def execRen (s : State) : Host.Outcome State Fault Refusal := .next (renderChain s).completed

/-- `RUN` (R85): the operation of `DCH`, then the operation of `REN`, as one command with one answer. -/
def execRun (s : State) : Host.Outcome State Fault Refusal := .next (renderChain (decryptChain s)).completed

end Sys2Proof.Machine
end

