-- ==== Sys2Proof/Machine/Housekeeping.lean ====
section
/-!
DEFINITION. The housekeeping commands `CLRE` and `RST` (44_system R87, R88).
-/

namespace Sys2Proof.Machine

/-- `CLRE` (R87): `STATUS <- 0`. -/
def execClre (s : State) : Host.Outcome State Fault Refusal := .next s.clearFault.completed

/-- `RST` (R88): every piece of state to its reset value; `OUT` keeps what was emitted. -/
def execRst (s : State) : Host.Outcome State Fault Refusal := .next s.restore.completed

end Sys2Proof.Machine
end

