-- ==== Sys2Proof/Machine/RegAccess.lean ====
section
/-!
DEFINITION. The register access commands `NOP`, `WR`, `RD` (40_register_access R59 to R61).
-/

namespace Sys2Proof.Machine

/-- `NOP` (R59): no state changes; response `(0, 0)`. -/
def execNop (s : State) : Host.Outcome State Fault Refusal := .next s.completed

/-- `WR reg, value` (R60): `RegWrite(REG, WDATA)`; a fault records the command word (R89, R90). -/
def execWr (reg : RegNo) (data : Word64) (s : State) : Host.Outcome State Fault Refusal :=
  match regWrite s reg data with
  | .ok s' => .next s'.completed
  | .error cause => .next (s.cmdFault cause (encode (.wr reg data)).cmd)

/-- `RD reg` (R61): `RDATA <- RegRead(REG)`; an unmapped number takes the fault. -/
def execRd (reg : RegNo) (s : State) : Host.Outcome State Fault Refusal :=
  match regRead s reg with
  | .ok v => .next (s.respond v false)
  | .error cause => .next (s.cmdFault cause (encode (.rd reg)).cmd)

end Sys2Proof.Machine
end

