-- ==== Sys2Proof/Machine/Dispatch.lean ====
section
/-!
DEFINITION. One arm per command (30_encoding R51), each one call of its meaning.
-/

namespace Sys2Proof.Machine

def exec (i : Instr) (s : State) : Host.Outcome State Fault Refusal :=
  match i with
  | .nop => Sys2Proof.Machine.execNop s
  | .wr reg data => Sys2Proof.Machine.execWr reg data s
  | .rd reg => Sys2Proof.Machine.execRd reg s
  | .enc => Sys2Proof.Machine.execEnc s
  | .dec => Sys2Proof.Machine.execDec s
  | .dch => Sys2Proof.Machine.execDch s
  | .ren => Sys2Proof.Machine.execRen s
  | .run => Sys2Proof.Machine.execRun s
  | .clre => Sys2Proof.Machine.execClre s
  | .rst => Sys2Proof.Machine.execRst s

end Sys2Proof.Machine
end

