-- ==== Sys2Proof/Machine/Step.lean ====
section
/-!
DEFINITION. One step: CORE takes the host's next command, decodes it, performs it whole and answers it (20_memory R39, R42; 30_encoding R52).
With no command issued CORE is idle and keeps all state (60_exceptions R99).
-/

namespace Sys2Proof.Machine

/-- One command, performed as one atomic transition (R3, R39). -/
def step (s : State) : Host.Outcome State Fault Refusal :=
  match s.take with
  | none => .next s
  | some (c, s') =>
    match decode c with
    | .ok i => exec i s'
    | .error _ => .next (s'.illegal c)

/-- The state with the command of these bits placed as the host's next one (log entry 12). -/
def State.withFetchWord (s : State) (nbits w : Nat) : State := s.issueFirst (commandOfBits nbits w)

end Sys2Proof.Machine
end

