-- ==== Sys2Proof/Machine/Asm.lean ====
section
/-!
DEFINITION. The assembler form of commands (30_encoding R57), the pseudo-commands and the call sequences of R58, and the
encoded listing form. Text is a list of characters. Nothing here is state: a program is the host's (10_state R24).
-/

namespace Sys2Proof.Machine

/-- A register as the assembler names it (R57): a name of 10_state R26 or `r<number>`. The indexes are as written, in range or not. -/
inductive AsmReg where
  | key (i : Nat)
  | v0
  | v1
  | sum
  | rounds
  | nblk
  | status
  | delta
  | glen
  | nmax
  | sent
  | chw (k : Nat)
  | gt (b : Nat)
  | raw (n : Nat)
  deriving DecidableEq, Repr

/-- The registers R57 allows: `KEY0`..`KEY3`, `CHW0`..`CHW13`, `GT0`..`GT55`, raw numbers `0..255`. -/
def AsmReg.wf : AsmReg → Bool
  | .key i => decide (i < 4)
  | .chw k => decide (k < 14)
  | .gt b => decide (b < 56)
  | .raw n => decide (n < 256)
  | _ => true

/-- The register number of a name (R26). -/
def AsmReg.number : AsmReg → RegNo
  | .key i => BitVec.ofNat 8 i
  | .v0 => 0x04#8
  | .v1 => 0x05#8
  | .sum => 0x06#8
  | .rounds => 0x07#8
  | .nblk => 0x08#8
  | .status => 0x09#8
  | .delta => 0x0A#8
  | .glen => 0x0B#8
  | .nmax => 0x0C#8
  | .sent => 0x0D#8
  | .chw k => BitVec.ofNat 8 (0x20 + k)
  | .gt b => BitVec.ofNat 8 (0x40 + b)
  | .raw n => BitVec.ofNat 8 n

/-- One line: a command (R57) or a pseudo-command (R58). -/
inductive AsmLine where
  | nop
  | wr (reg : AsmReg) (value : Nat)
  | rd (reg : AsmReg)
  | enc
  | dec
  | dch
  | ren
  | run
  | clre
  | rst
  | ldkey (k0 k1 k2 k3 : Nat)
  | ldblk (a b : Nat)
  | ldch (i a b : Nat)
  | rdblk
  | rdch (i : Nat)
  deriving DecidableEq, Repr

/-- A value is a number `0 .. 2^64-1` (R57). -/
def asmValue (v : Nat) : Bool := decide (v < 2 ^ 64)

/-- The lines R57 and R58 allow: registers by R57, values below `2^64`, block indexes `0..6`. -/
def AsmLine.wf : AsmLine → Bool
  | .wr reg value => reg.wf && asmValue value
  | .rd reg => reg.wf
  | .ldkey k0 k1 k2 k3 => asmValue k0 && asmValue k1 && asmValue k2 && asmValue k3
  | .ldblk a b => asmValue a && asmValue b
  | .ldch i a b => decide (i < 7) && asmValue a && asmValue b
  | .rdch i => decide (i < 7)
  | _ => true

/-- A write of a value to a named register. -/
def asmWr (reg : AsmReg) (value : Nat) : Instr := .wr reg.number (BitVec.ofNat 64 value)

/-- The commands of a well-formed line, in the order they are issued (R57, R58). -/
def AsmLine.commands : AsmLine → List Instr
  | .nop => [.nop]
  | .wr reg value => [asmWr reg value]
  | .rd reg => [.rd reg.number]
  | .enc => [.enc]
  | .dec => [.dec]
  | .dch => [.dch]
  | .ren => [.ren]
  | .run => [.run]
  | .clre => [.clre]
  | .rst => [.rst]
  | .ldkey k0 k1 k2 k3 => [asmWr (.key 0) k0, asmWr (.key 1) k1, asmWr (.key 2) k2, asmWr (.key 3) k3]
  | .ldblk a b => [asmWr .v0 a, asmWr .v1 b]
  | .ldch i a b => [asmWr (.chw (2 * i)) a, asmWr (.chw (2 * i + 1)) b]
  | .rdblk => [.rd AsmReg.v0.number, .rd AsmReg.v1.number]
  | .rdch i => [.rd (AsmReg.chw (2 * i)).number, .rd (AsmReg.chw (2 * i + 1)).number]

/-- The command stream of a program, or none if a line is ill formed. -/
def assemble (lines : List AsmLine) : Option (List Command) :=
  if lines.all AsmLine.wf then some ((lines.flatMap AsmLine.commands).map encode) else none

/-- `Encipher(r, (a, b), (k0, k1, k2, k3))` as a command sequence (R58). -/
def callEncipher (r a b k0 k1 k2 k3 : Nat) : List AsmLine :=
  [.ldkey k0 k1 k2 k3, .wr .rounds r, .ldblk a b, .enc, .rdblk]

/-- `Decipher(r, (a, b), (k0, k1, k2, k3))` as a command sequence (R58). -/
def callDecipher (r a b k0 k1 k2 k3 : Nat) : List AsmLine :=
  [.ldkey k0 k1 k2 k3, .wr .rounds r, .ldblk a b, .dec, .rdblk]

/-- `LDCH i, ...` for each block of a list, from block `i` on. -/
def loadBlocks : Nat → List (Nat × Nat) → List AsmLine
  | _, [] => []
  | i, (a, b) :: rest => .ldch i a b :: loadBlocks (i + 1) rest

/-- `RDCH i` for `n` blocks, from block `i` on. -/
def readBlocks : Nat → Nat → List AsmLine
  | _, 0 => []
  | i, n + 1 => .rdch i :: readBlocks (i + 1) n

/-- `DecryptChain(blocks, key, rounds)` as a command sequence (R58). -/
def callDecryptChain (blocks : List (Nat × Nat)) (k0 k1 k2 k3 r : Nat) : List AsmLine :=
  [.ldkey k0 k1 k2 k3, .wr .rounds r] ++ loadBlocks 0 blocks ++ [.wr .nblk blocks.length, .dch]
    ++ readBlocks 0 blocks.length

/-- `RenderGlyphs(blocks, table)` as a command sequence, the table being the configured one (R58). -/
def callRenderGlyphs (blocks : List (Nat × Nat)) : List AsmLine :=
  loadBlocks 0 blocks ++ [.wr .nblk blocks.length, .ren]

/-- One hexadecimal digit, in upper case as in the spec's listings (log entry 17: DESIGN CHOICE, R57 gives no digit case). -/
def hexDigit (n : Nat) : Char := (['0', '1', '2', '3', '4', '5', '6', '7', '8', '9', 'A', 'B', 'C', 'D', 'E', 'F'])[n]?.getD '0'

/-- A number in `digits` hexadecimal digits, most significant first. -/
def hexDigits : Nat → Nat → List Char
  | 0, _ => []
  | d + 1, n => hexDigits d (n / 16) ++ [hexDigit (n % 16)]

/-- The listing form `CCCC:DDDDDDDDDDDDDDDD` (R57). -/
def Command.listing (c : Command) : List Char := hexDigits 4 c.cmd.toNat ++ [':'] ++ hexDigits 16 c.wdata.toNat

/-- The value of one digit in base 10 or 16. Hexadecimal digits are taken in upper and in lower case (log entry 17: DESIGN CHOICE, R57
gives no digit case). -/
def digitValue (base : Nat) (c : Char) : Option Nat :=
  let n := c.toNat
  let v := if 0x30 ≤ n ∧ n ≤ 0x39 then n - 0x30
    else if 0x41 ≤ n ∧ n ≤ 0x46 then n - 0x37
    else if 0x61 ≤ n ∧ n ≤ 0x66 then n - 0x57
    else base
  if v < base then some v else none

/-- A run of digits onto an accumulator. -/
def digitsValue (base : Nat) : Nat → List Char → Option Nat
  | acc, [] => some acc
  | acc, c :: rest => (digitValue base c).bind fun d => digitsValue base (acc * base + d) rest

/-- A number, "decimal or 0x hexadecimal" (R57), with leading zeros or without (log entry 17: DESIGN CHOICE). -/
def parseNumber : List Char → Option Nat
  | [] => none
  | '0' :: 'x' :: c :: rest => digitsValue 16 0 (c :: rest)
  | c :: rest => digitsValue 10 0 (c :: rest)

/-- A decimal index, as in `CHW13`. Leading zeros are taken, so `KEY00` and `CHW007` are read as `KEY0` and `CHW7` (log entry 17:
DESIGN CHOICE, R57 names only `KEY0`..`KEY3`, `CHW0`..`CHW13`, `GT0`..`GT55`). -/
def parseIndex : List Char → Option Nat
  | [] => none
  | c :: rest => digitsValue 10 0 (c :: rest)

/-- A register name or `r<number>` (R57). -/
def parseReg : List Char → Option AsmReg
  | ['V', '0'] => some .v0
  | ['V', '1'] => some .v1
  | ['S', 'U', 'M'] => some .sum
  | ['R', 'O', 'U', 'N', 'D', 'S'] => some .rounds
  | ['N', 'B', 'L', 'K'] => some .nblk
  | ['S', 'T', 'A', 'T', 'U', 'S'] => some .status
  | ['D', 'E', 'L', 'T', 'A'] => some .delta
  | ['G', 'L', 'E', 'N'] => some .glen
  | ['N', 'M', 'A', 'X'] => some .nmax
  | ['S', 'E', 'N', 'T'] => some .sent
  | 'K' :: 'E' :: 'Y' :: i => (parseIndex i).map .key
  | 'C' :: 'H' :: 'W' :: k => (parseIndex k).map .chw
  | 'G' :: 'T' :: b => (parseIndex b).map .gt
  | 'r' :: n => (parseNumber n).map .raw
  | _ => none

/-- A character that parts two words of a line (log entry 13: DESIGN CHOICE). -/
def isSeparator (c : Char) : Bool := c == ' ' || c == ',' || c == '\t'

/-- The words of a line, up to its comment: "Text after `;` is a comment" (R57). -/
def lineWords : List Char → List Char → List (List Char)
  | [], [] => []
  | cur, [] => [cur]
  | cur, c :: rest =>
    if c = ';' then (if cur.isEmpty then [] else [cur])
    else if isSeparator c then (if cur.isEmpty then lineWords [] rest else cur :: lineWords [] rest)
    else lineWords (cur ++ [c]) rest

/-- The line a list of words stands for, or none (R57, R58). A block index is read as any number is (log entry 17: DESIGN CHOICE). -/
def parseWords : List (List Char) → Option AsmLine
  | [['N', 'O', 'P']] => some .nop
  | [['W', 'R'], r, v] => (parseReg r).bind fun r => (parseNumber v).map fun v => .wr r v
  | [['R', 'D'], r] => (parseReg r).map .rd
  | [['E', 'N', 'C']] => some .enc
  | [['D', 'E', 'C']] => some .dec
  | [['D', 'C', 'H']] => some .dch
  | [['R', 'E', 'N']] => some .ren
  | [['R', 'U', 'N']] => some .run
  | [['C', 'L', 'R', 'E']] => some .clre
  | [['R', 'S', 'T']] => some .rst
  | [['L', 'D', 'K', 'E', 'Y'], a, b, c, d] =>
    (parseNumber a).bind fun a => (parseNumber b).bind fun b => (parseNumber c).bind fun c =>
      (parseNumber d).map fun d => .ldkey a b c d
  | [['L', 'D', 'B', 'L', 'K'], a, b] => (parseNumber a).bind fun a => (parseNumber b).map fun b => .ldblk a b
  | [['L', 'D', 'C', 'H'], i, a, b] =>
    (parseNumber i).bind fun i => (parseNumber a).bind fun a => (parseNumber b).map fun b => .ldch i a b
  | [['R', 'D', 'B', 'L', 'K']] => some .rdblk
  | [['R', 'D', 'C', 'H'], i] => (parseNumber i).map .rdch
  | _ => none

/-- One line of assembler text (R57, R58); none if it is no line, or if a register, a value or a block index is out of range. -/
def parseLine (text : List Char) : Option AsmLine :=
  (parseWords (lineWords [] text)).bind fun l => if l.wf then some l else none

end Sys2Proof.Machine
end

