-- ==== Sys2Proof/Safety.lean ====
section
/-!
DEFINITION. What a sound fault record and a clean run are, in the words of 60_exceptions R89 to R92, on plain numbers.
-/

namespace Sys2Proof.Machine

/-- The register numbers that the map of 10_state R26 lists. -/
abbrev mappedNumber (n : Nat) : Prop := n < 0x0E ∨ (0x20 ≤ n ∧ n < 0x2E) ∨ (0x40 ≤ n ∧ n < 0x78)

/-- The numbers R26 marks read only: `SUM`, `STATUS`, `DELTA`, `GLEN`, `NMAX`, `SENT`, `GT0`..`GT55` (R89). -/
abbrev readOnlyNumber (n : Nat) : Prop := n = 0x06 ∨ (0x09 ≤ n ∧ n < 0x0E) ∨ (0x40 ≤ n ∧ n < 0x78)

/-- The cause code of the command fault that a command raises, or none, by the ordered checks of R91. The command
word is taken apart by division: `CMD / 256` is `OPC`, `CMD % 256` is `REG`. -/
def causeOf (c : Command) : Option (BitVec 4) :=
  let opc := c.cmd.toNat / 256
  let reg := c.cmd.toNat % 256
  if ¬ legalWord c.cmd then some 1#4
  else if (opc = 1 ∨ opc = 2) ∧ ¬ mappedNumber reg then some 2#4
  else if opc = 1 ∧ readOnlyNumber reg then some 3#4
  else if opc = 1 ∧ (reg = 0x07 ∧ 2 ^ 32 ≤ c.wdata.toNat ∨ reg = 0x08 ∧ 7 < c.wdata.toNat) then some 4#4
  else none

/-- A `STATUS` that the fields of R25 allow: nothing recorded and both fields zero, or a cause that the recorded
command word raises with some write data (R89: `WDATA` is not recorded). -/
def Status.Sound (st : Status) : Prop :=
  (st.err = false → st.cause = 0#4 ∧ st.fcmd = 0#16) ∧
  (st.err = true → ∃ d, causeOf { cmd := st.fcmd, wdata := d } = some st.cause)

/-- The invariant: `STATUS` is sound, a fault is recorded only if some command answered `RERR = 1`, and every answer
with `RERR = 1` has `RDATA = 0` (R25, R47, R90). -/
def State.Inv (s : State) : Prop :=
  s.status.Sound ∧
  (s.status.err = true → ∃ r ∈ s.resps, r.rerr = true) ∧
  (∀ r ∈ s.resps, r.rerr = true → r.rdata = 0#64)

/-- A run in which every command so far was answered with `RERR = 0`. -/
def State.Clean (s : State) : Prop := ∀ r ∈ s.resps, r.rerr = false

end Sys2Proof.Machine
end

