-- ==== Sys2Proof/Certificates/Slice0/Obligations.lean ====
section
/-!
DEFINITION. The statements for the provers. The reference functions they use are written on natural numbers, from the
pseudocode of the rules, and not from the model's own bit-vector definitions.
-/

namespace Sys2Proof.Reference

open Sys2Proof.Machine

/-! ### Answers -/

/-- `s` with one more answer. -/
abbrev answered (s : State) (rdata : Word64) (rerr : Bool) : State :=
  { s with resps := s.resps ++ [{ rdata := rdata, rerr := rerr }] }

/-- `s` after a command fault of cause code `k` raised by the word `w` (R90), answered `(0, 1)`. -/
abbrev faulted (s : State) (k : BitVec 4) (w : CmdWord) : State :=
  answered { s with status := if s.status.err then s.status else { err := true, cause := k, fcmd := w } } 0#64 true

/-- `s` at the moment its host has issued the command `c` before all else. -/
abbrev issued (s : State) (c : Command) : State := { s with cmds := c :: s.cmds }

/-! ### The register space (R25, R37, R38) -/

/-- `STATUS` as a number (R25). -/
def statusWord (st : Status) : Nat := st.err.toNat + 2 ^ 4 * st.cause.toNat + 2 ^ 16 * st.fcmd.toNat

/-- `RegRead` on numbers (R37). -/
def regRead (s : State) (n : Nat) : Option Nat :=
  if n < 4 then (s.key.toList[n]?).map BitVec.toNat
  else if n = 4 then some s.v0.toNat
  else if n = 5 then some s.v1.toNat
  else if n = 6 then some s.sum.toNat
  else if n = 7 then some s.rounds.toNat
  else if n = 8 then some s.nblk.toNat
  else if n = 9 then some (statusWord s.status)
  else if n = 10 then some s.cfg.delta.toNat
  else if n = 11 then some 56
  else if n = 12 then some 7
  else if n = 13 then some 0x3F
  else if 0x20 ≤ n ∧ n ≤ 0x2D then (s.chw.toList[n - 0x20]?).map BitVec.toNat
  else if 0x40 ≤ n ∧ n ≤ 0x77 then (s.cfg.gt.toList[n - 0x40]?).map BitVec.toNat
  else none

/-- The state a `RegWrite` that does not fault leaves (R38). -/
def regWrite (s : State) (n v : Nat) : State :=
  if n < 4 then { s with key := s.key.setIfInBounds n (BitVec.ofNat 64 v) }
  else if n = 4 then { s with v0 := BitVec.ofNat 40 (v % 2 ^ 40) }
  else if n = 5 then { s with v1 := BitVec.ofNat 40 (v % 2 ^ 40) }
  else if n = 7 then { s with rounds := BitVec.ofNat 32 v }
  else if n = 8 then { s with nblk := BitVec.ofNat 3 v }
  else { s with chw := s.chw.setIfInBounds (n - 0x20) (BitVec.ofNat 64 v) }

/-! ### The Block Transform Engine (R62 to R71) -/

/-- `F` (R62). -/
def f (x s k : Nat) : Nat :=
  let a := x * 2 ^ 4 % 2 ^ 40
  let b := x / 2 ^ 5
  let c := ((a ^^^ b) + x) % 2 ^ 40
  let d := (s + k) % 2 ^ 40
  c ^^^ d

/-- `F64` (R63). -/
def f64 (x s k : Nat) : Nat :=
  (((x * 2 ^ 4 % 2 ^ 64) ^^^ (x % 2 ^ 40 / 2 ^ 5)) % 2 ^ 64 + x) % 2 ^ 64 ^^^ ((s + k) % 2 ^ 64)

/-- `KEY[n]`. -/
def keyAt (key : Vector Word64 4) (n : Nat) : Nat := ((key.toList[n]?).map BitVec.toNat).getD 0

/-- `(V0, V1, SUM)` as numbers. -/
abbrev Triple := Nat × Nat × Nat

/-- `EncRound` (R67), with the selectors of R65. -/
def encRound (delta : Nat) (key : Nat → Nat) : Triple → Triple
  | (v0, v1, sum) =>
    let v0' := (v0 + f v1 sum (key (sum % 4))) % 2 ^ 40
    let sum' := (sum + delta) % 2 ^ 48
    let v1' := (v1 + f v0' sum' (key (sum' / 2 ^ 11 % 4))) % 2 ^ 40
    (v0', v1', sum')

/-- `DecRound` (R68); a difference is reduced as R12 says, by adding the modulus first. -/
def decRound (delta : Nat) (key : Nat → Nat) : Triple → Triple
  | (v0, v1, sum) =>
    let v1' := (v1 + (2 ^ 40 - f v0 sum (key (sum / 2 ^ 11 % 4)))) % 2 ^ 40
    let sum' := (sum + (2 ^ 48 - delta)) % 2 ^ 48
    let v0' := (v0 + (2 ^ 40 - f v1' sum' (key (sum' % 4)))) % 2 ^ 40
    (v0', v1', sum')

/-- `repeat n times` (R13). -/
def repeatTimes (body : Triple → Triple) : Nat → Triple → Triple
  | 0, e => e
  | n + 1, e => repeatTimes body n (body e)

/-- The `(V0, V1, SUM)` that `ENC` leaves (R69). -/
def encTriple (s : State) : Triple :=
  repeatTimes (encRound s.cfg.delta.toNat (keyAt s.key)) s.rounds.toNat (s.v0.toNat, s.v1.toNat, 0)

/-- The `(V0, V1, SUM)` that `DEC` leaves, from the block `(a, b)` (R70, R71). -/
def decTripleOf (s : State) (a b : Nat) : Triple :=
  repeatTimes (decRound s.cfg.delta.toNat (keyAt s.key)) s.rounds.toNat
    (a, b, s.cfg.delta.toNat * s.rounds.toNat % 2 ^ 40)

/-- The state with `V0`, `V1`, `SUM` put to the numbers of a triple. -/
def withTriple (s : State) : Triple → State
  | (a, b, c) => { s with v0 := BitVec.ofNat 40 a, v1 := BitVec.ofNat 40 b, sum := BitVec.ofNat 48 c }

/-- A round of the source's other machine, which keeps `v0` and `v1` in 64 bits and masks only the sum (R63). -/
def encRound64 (delta : Nat) (key : Nat → Nat) : Triple → Triple
  | (v0, v1, sum) =>
    let v0' := (v0 + f64 v1 sum (key (sum % 4))) % 2 ^ 64
    let sum' := (sum + delta) % 2 ^ 48
    let v1' := (v1 + f64 v0' sum' (key (sum' / 2 ^ 11 % 4))) % 2 ^ 64
    (v0', v1', sum')

/-- Its inverse round. -/
def decRound64 (delta : Nat) (key : Nat → Nat) : Triple → Triple
  | (v0, v1, sum) =>
    let v1' := (v1 + (2 ^ 64 - f64 v0 sum (key (sum / 2 ^ 11 % 4)))) % 2 ^ 64
    let sum' := (sum + (2 ^ 48 - delta)) % 2 ^ 48
    let v0' := (v0 + (2 ^ 64 - f64 v1' sum' (key (sum' % 4)))) % 2 ^ 64
    (v0', v1', sum')

/-- The rows of the table of R75: `r`, `SUM` after `ENC`, `SUM` at the start of `DEC`, `SUM` after `DEC`. -/
def sumTable : List (Nat × Nat × Nat × Nat) :=
  [ (0, 0x000000000000, 0x000000000000, 0x000000000000), (1, 0x009E38538A49, 0x009E38538A49, 0x000000000000),
    (2, 0x013C70A71492, 0x003C70A71492, 0xFF0000000000), (31, 0x1328D21DBED7, 0x0028D21DBED7, 0xED0000000000),
    (32, 0x13C70A714920, 0x00C70A714920, 0xED0000000000), (33, 0x146542C4D369, 0x006542C4D369, 0xEC0000000000),
    (64, 0x278E14E29240, 0x008E14E29240, 0xD90000000000),
    (4294967295, 0x89AAC7AC75B7, 0x00AAC7AC75B7, 0x770000000000) ]

/-! ### The chain and its glyphs (R21, R80 to R83) -/

/-- `CHW[k]` as a number. -/
def chainWord (s : State) (k : Nat) : Nat := ((s.chw.toList[k]?).map BitVec.toNat).getD 0

/-- The glyphs of a word, from byte `n-1` down to byte 0 (R80, R81). -/
def wordGlyphs (gt : Vector Glyph 56) (w : Nat) : Nat → List Glyph
  | 0 => []
  | j + 1 =>
    let b := w / 256 ^ j % 256
    (if b = 0 then [] else if b < 56 then gt.toList[b]?.toList else [0x3F#21]) ++ wordGlyphs gt w j

/-- The glyphs of blocks `0 .. n-1`, each `v0` before `v1` (R81). -/
def blockGlyphs (s : State) : Nat → List Glyph
  | 0 => []
  | n + 1 => blockGlyphs s n ++ wordGlyphs s.cfg.gt (chainWord s (2 * n)) 8 ++ wordGlyphs s.cfg.gt (chainWord s (2 * n + 1)) 8

/-- Everything one `REN` emits: the glyphs, then one newline (R82, R83). -/
def renGlyphs (s : State) : List Glyph := blockGlyphs s s.nblk.toNat ++ [0x0A#21]

/-- The table's mnemonic of an instruction. -/
def mnemonicOf : Instr → String
  | .nop => "NOP"
  | .wr _ _ => "WR"
  | .rd _ => "RD"
  | .enc => "ENC"
  | .dec => "DEC"
  | .dch => "DCH"
  | .ren => "REN"
  | .run => "RUN"
  | .clre => "CLRE"
  | .rst => "RST"

/-- The command word with opcode `opc` and register number `r` (R48), as arithmetic. -/
def wordOf (opc : Nat) (r : RegNo) : CmdWord := BitVec.ofNat 16 (256 * opc + r.toNat)

end Sys2Proof.Reference

open Sys2Proof Sys2Proof.Machine

/-! ## Encoding -/

/-- Decoding the encoding of any instruction gives it back: no bit of `REG` or `WDATA` is dropped (R47, R48, R49, R51). -/
def Obligations.DecodeOfEncodeGivesTheInstruction : Prop :=
  ∀ i : Instr, decode (encode i) = .ok i

/-- A word that decodes is the word of the instruction it decodes to, and `WR` alone takes `WDATA` (R47, R51, R52). -/
def Obligations.DecodedInstructionEncodesToItsWord : Prop :=
  ∀ (c : Command) (i : Instr), decode c = .ok i →
    (encode i).cmd = c.cmd ∧ ∀ r d, i = .wr r d → d = c.wdata

/-- At most one row of the table selects a word; a word decodes to the instruction of the row that selects it, and is refused if
none does (R51, R52, R53). -/
def Obligations.DecodeFollowsTheOneRowSelected : Prop :=
  ∀ c : Command,
    (opcodeTable.filter (fun row => row.selects c.cmd)).length ≤ 1 ∧
    (∀ i, decode c = .ok i →
      (opcodeTable.find? (fun row => row.selects c.cmd)).map OpcodeRow.mnemonic = some (Reference.mnemonicOf i)) ∧
    ((∃ e, decode c = .error e) ↔ legalWord c.cmd = false)

/-- Which of the two kinds of illegal word a word is (R53): an opcode that is none of the ten, or one of the eight `N`-format
opcodes with `REG` not zero. -/
def Obligations.IllegalWordIsOfOneOfTwoKinds : Prop :=
  ∀ c : Command,
    let opc := c.cmd.toNat / 256
    let reg := c.cmd.toNat % 256
    (decode c = .error (.undefinedOpcode (BitVec.ofNat 8 opc)) ↔
      opc ∉ [0x00, 0x01, 0x02, 0x10, 0x11, 0x12, 0x13, 0x14, 0x1E, 0x1F]) ∧
    (decode c = .error (.regNotZero (BitVec.ofNat 8 opc) (BitVec.ofNat 8 reg)) ↔
      opc ∈ [0x00, 0x10, 0x11, 0x12, 0x13, 0x14, 0x1E, 0x1F] ∧ reg ≠ 0)

/-- Words written out from the spec's table decode to what the spec says they select (95 section 2.1). -/
def Obligations.SpecWordsDecodeAsListed : Prop :=
  decode ⟨0x0000#16, 0xFFFF#64⟩ = .ok .nop ∧ decode ⟨0x0104#16, 0xFFFFFF0123456789#64⟩ = .ok (.wr 0x04#8 0xFFFFFF0123456789#64) ∧
  decode ⟨0x01FF#16, 7#64⟩ = .ok (.wr 0xFF#8 7#64) ∧ decode ⟨0x0277#16, 0#64⟩ = .ok (.rd 0x77#8) ∧
  decode ⟨0x1000#16, 0#64⟩ = .ok .enc ∧ decode ⟨0x1100#16, 0#64⟩ = .ok .dec ∧ decode ⟨0x1200#16, 0#64⟩ = .ok .dch ∧
  decode ⟨0x1300#16, 0#64⟩ = .ok .ren ∧ decode ⟨0x1400#16, 0#64⟩ = .ok .run ∧ decode ⟨0x1E00#16, 0#64⟩ = .ok .clre ∧
  decode ⟨0x1F00#16, 0#64⟩ = .ok .rst ∧ decode ⟨0x0300#16, 0#64⟩ = .error (.undefinedOpcode 0x03#8) ∧
  decode ⟨0x1F80#16, 0#64⟩ = .error (.regNotZero 0x1F#8 0x80#8)

/-! ## The step -/

/-- When the host's next command decodes to `i`, a step is `exec` of `i` at the state with that command taken (R42, R52). -/
def Obligations.StepRunsTheDecodedInstruction : Prop :=
  ∀ (s : State) (c : Command) (rest : List Command) (i : Instr),
    s.cmds = c :: rest → decode c = .ok i → step s = exec i { s with cmds := rest }

/-- A word that selects no row takes `IllegalCommand`: nothing but `STATUS` changes, and the answer is `(0, 1)` (R52, R53, R90). -/
def Obligations.StepOfIllegalWordTakesTheFault : Prop :=
  ∀ (s : State) (c : Command), legalWord c.cmd = false →
    step (Reference.issued s c) = .next (Reference.faulted s 1#4 c.cmd)

/-- With no command issued CORE is idle and keeps all state (R99: "between commands it is idle and keeps all state"; that the model
lets a step pass then is log entry 2, DESIGN CHOICE). -/
def Obligations.StepWithNoCommandKeepsAllState : Prop :=
  ∀ s : State, s.cmds = [] → step s = .next s

/-- Every command, whatever its word, whatever the state, is answered exactly once, and a faulting one answers `RDATA = 0` (R47, R52, R111). -/
def Obligations.StepAnswersEachCommandOnce : Prop :=
  ∀ (s : State) (c : Command), ∃ t r, step (Reference.issued s c) = .next t ∧
    t.cmds = s.cmds ∧ t.resps = s.resps ++ [r] ∧ (r.rerr = true → r.rdata = 0#64) ∧
    (r.rdata ≠ 0#64 → c.cmd.toNat / 256 = 2)

/-- Whatever commands the host has issued, as many steps as there are commands answer them all and stop nowhere (R39, R42, R112). -/
def Obligations.IssuedCommandsAreAllAnswered : Prop :=
  ∀ s : State, ∃ t, Host.Core.run core s.cmds.length s = .next t ∧
    t.cmds = [] ∧ t.resps.length = s.resps.length + s.cmds.length ∧ ∃ new, t.resps = s.resps ++ new

/-- Which fault a command raises: the first check that fails, in the order decode, register, access, value, and none if all pass;
a fault changes `STATUS` alone, and only if no fault is recorded (R89, R90, R91). -/
def Obligations.FaultIsTheFirstFailedCheck : Prop :=
  ∀ (s : State) (c : Command),
    match causeOf c with
    | some k => step (Reference.issued s c) = .next (Reference.faulted s k c.cmd)
    | none => ∃ t v, step (Reference.issued s c) = .next t ∧ t.resps = s.resps ++ [{ rdata := v, rerr := false }]

/-- A recorded fault does not block anything: but for `RD STATUS`, what a command does to everything other than `STATUS` does not
depend on `STATUS` (R90). -/
def Obligations.RecordedFaultBlocksNoCommand : Prop :=
  ∀ (i : Instr) (s : State) (st : Status), i ≠ .rd 0x09#8 →
    ∃ t t', exec i s = .next t ∧ exec i { s with status := st } = .next t' ∧ t' = { t with status := t'.status }

/-- The output trace, the answers already given and the commands not yet taken are read by no command (R14, R23, R28, R42). -/
def Obligations.TracesAreReadByNoCommand : Prop :=
  ∀ (i : Instr) (s : State), ∃ (t : State) (gs : List Glyph) (r : Response),
    ∀ (o : List Glyph) (cs : List Command) (rs : List Response),
      exec i { s with out := o, cmds := cs, resps := rs } = .next { t with out := o ++ gs, cmds := cs, resps := rs ++ [r] }

/-! ## Register access -/

/-- `NOP` changes nothing (R59). -/
def Obligations.NopOnlyAnswers : Prop :=
  ∀ s : State, exec .nop s = .next (Reference.answered s 0#64 false)

/-- `RD` of a mapped number answers `RegRead` of it, zero-extended, and changes nothing (R37, R61). -/
def Obligations.RdAnswersTheRegister : Prop :=
  ∀ (s : State) (r : RegNo) (v : Nat), Reference.regRead s r.toNat = some v →
    v < 2 ^ 64 ∧ exec (.rd r) s = .next (Reference.answered s (BitVec.ofNat 64 v) false)

/-- `RD` of an unmapped number takes `BadRegister` (R31, R37, R61). -/
def Obligations.RdOfUnmappedNumberFaults : Prop :=
  ∀ (s : State) (r : RegNo), ¬ mappedNumber r.toNat →
    exec (.rd r) s = .next (Reference.faulted s 2#4 (Reference.wordOf 2 r))

/-- A `WR` that no check refuses writes the named cell, as `RegWrite` says, and nothing else (R38, R60). -/
def Obligations.WrWritesTheNamedCellOnly : Prop :=
  ∀ (s : State) (r : RegNo) (v : Word64), causeOf { cmd := Reference.wordOf 1 r, wdata := v } = none →
    exec (.wr r v) s = .next (Reference.answered (Reference.regWrite s r.toNat v.toNat) 0#64 false)

/-- A `WR` that a check refuses writes nothing but `STATUS`: unmapped, then read-only, then out of range (R38, R60, R91). -/
def Obligations.RefusedWrWritesOnlyStatus : Prop :=
  ∀ (s : State) (r : RegNo) (v : Word64),
    (¬ mappedNumber r.toNat → exec (.wr r v) s = .next (Reference.faulted s 2#4 (Reference.wordOf 1 r))) ∧
    (readOnlyNumber r.toNat → exec (.wr r v) s = .next (Reference.faulted s 3#4 (Reference.wordOf 1 r))) ∧
    (r.toNat = 7 ∧ 2 ^ 32 ≤ v.toNat ∨ r.toNat = 8 ∧ 7 < v.toNat →
      exec (.wr r v) s = .next (Reference.faulted s 4#4 (Reference.wordOf 1 r)))

/-- A `RD` right after a `WR` of the same register answers what was written, cut to 40 bits for `V0` and `V1` (R37, R38). -/
def Obligations.RdAfterWrAnswersWhatWasWritten : Prop :=
  ∀ (s : State) (r : RegNo) (v : Word64), causeOf { cmd := Reference.wordOf 1 r, wdata := v } = none →
    ∃ t, exec (.wr r v) s = .next t ∧
      exec (.rd r) t = .next (Reference.answered t
        (if r.toNat = 4 ∨ r.toNat = 5 then BitVec.ofNat 64 (v.toNat % 2 ^ 40) else v) false)

/-- No two numbers name the same cell: a `WR` changes what no other register reads as (R20, R31). -/
def Obligations.WrLeavesEveryOtherRegister : Prop :=
  ∀ (s : State) (r q : RegNo) (v : Word64), r ≠ q →
    causeOf { cmd := Reference.wordOf 1 r, wdata := v } = none →
    ∃ t, exec (.wr r v) s = .next t ∧ Reference.regRead t q.toNat = Reference.regRead s q.toNat

/-! ## The Block Transform Engine -/

/-- The model's `F` is the arithmetic of R62. -/
def Obligations.RoundFunctionIsTheStatedArithmetic : Prop :=
  ∀ (x : Val40) (s : Sum48) (k : Word64), (roundF x s k).toNat = Reference.f x.toNat s.toNat k.toNat

/-- The model's `F64` is the arithmetic R63 writes out on 64-bit storage, and its low 40 bits are the model's `F` of the low 40
bits of `x` (R63). -/
def Obligations.WideRoundFunctionAgreesInFortyBits : Prop :=
  ∀ (x : Word64) (s : Sum48) (k : Word64),
    (roundF64 x s k).toNat = Reference.f64 x.toNat s.toNat k.toNat ∧
    (roundF64 x s k).setWidth 40 = roundF (x.setWidth 40) s k

/-- The machine that keeps the block in 64 bits and masks after all rounds gives the block that `ENC` and `DEC` give (R63). -/
def Obligations.WideMachineGivesTheSameBlock : Prop :=
  ∀ (s : State) (a b : Word64),
    let wideEnc := Reference.repeatTimes (Reference.encRound64 s.cfg.delta.toNat (Reference.keyAt s.key)) s.rounds.toNat
      (a.toNat, b.toNat, 0)
    let wideDec := Reference.repeatTimes (Reference.decRound64 s.cfg.delta.toNat (Reference.keyAt s.key)) s.rounds.toNat
      (a.toNat, b.toNat, s.cfg.delta.toNat * s.rounds.toNat % 2 ^ 40)
    ∃ t u, exec .enc { s with v0 := a.setWidth 40, v1 := b.setWidth 40 } = .next t ∧
      exec .dec { s with v0 := a.setWidth 40, v1 := b.setWidth 40 } = .next u ∧
      t.v0.toNat = wideEnc.1 % 2 ^ 40 ∧ t.v1.toNat = wideEnc.2.1 % 2 ^ 40 ∧
      u.v0.toNat = wideDec.1 % 2 ^ 40 ∧ u.v1.toNat = wideDec.2.1 % 2 ^ 40

/-- `ENC` runs `ROUNDS` forward rounds on `(V0, V1)` from `SUM = 0`, and changes only `V0`, `V1` and `SUM` (R65, R66, R67, R69). -/
def Obligations.EncRunsForwardRoundsFromZero : Prop :=
  ∀ s : State, exec .enc s = .next (Reference.answered (Reference.withTriple s (Reference.encTriple s)) 0#64 false)

/-- `DEC` runs `ROUNDS` inverse rounds on `(V0, V1)` from the 40-bit sum, and changes only `V0`, `V1` and `SUM` (R65, R66, R68, R70, R71). -/
def Obligations.DecRunsInverseRoundsFromMaskedSum : Prop :=
  ∀ s : State, exec .dec s =
    .next (Reference.answered (Reference.withTriple s (Reference.decTripleOf s s.v0.toNat s.v1.toNat)) 0#64 false)

/-- One inverse round undoes one forward round whenever the sums agree in bits 39:0 (R68). -/
def Obligations.InverseRoundUndoesForwardRound : Prop :=
  ∀ (delta : Val40) (key : Vector Word64 4) (e : Engine) (s : Sum48),
    s.setWidth 40 = (encRound delta key e).sum.setWidth 40 →
    let d := decRound delta key { encRound delta key e with sum := s }
    d.v0 = e.v0 ∧ d.v1 = e.v1 ∧ d.sum.setWidth 40 = e.sum.setWidth 40

/-- `ENC` then `DEC`, and `DEC` then `ENC`, restore the block, for every key, round count, block and `DELTA` (R72). -/
def Obligations.EncAndDecUndoEachOther : Prop :=
  ∀ s : State,
    (∃ t u, exec .enc s = .next t ∧ exec .dec t = .next u ∧ u.v0 = s.v0 ∧ u.v1 = s.v1) ∧
    (∃ t u, exec .dec s = .next t ∧ exec .enc t = .next u ∧ u.v0 = s.v0 ∧ u.v1 = s.v1)

/-- With `ROUNDS = 0`, `ENC` and `DEC` leave the block and set `SUM = 0`; the mask of the source's zero-round identity is the
truncation at `WR V0` and `WR V1` (R73). -/
def Obligations.ZeroRoundsLeaveTheBlock : Prop :=
  ∀ s : State,
    (s.rounds = 0#32 → exec .enc s = .next (Reference.answered { s with sum := 0#48 } 0#64 false) ∧
      exec .dec s = .next (Reference.answered { s with sum := 0#48 } 0#64 false)) ∧
    (∀ v : Word64, exec (.wr 0x04#8 v) s = .next (Reference.answered { s with v0 := v.setWidth 40 } 0#64 false) ∧
      exec (.wr 0x05#8 v) s = .next (Reference.answered { s with v1 := v.setWidth 40 } 0#64 false))

/-- Two keys that agree in bits 39:0 of every word give the same `V0`, `V1` and `SUM` from every command; the key registers
still hold all 64 bits of what is written to them (R74). -/
def Obligations.HighKeyBitsNeverMatter : Prop :=
  (∀ (i : Instr) (s : State) (key' : Vector Word64 4),
    (∀ n < 4, Reference.keyAt key' n % 2 ^ 40 = Reference.keyAt s.key n % 2 ^ 40) →
    ∃ t t', exec i s = .next t ∧ exec i { s with key := key' } = .next t' ∧
      t'.v0 = t.v0 ∧ t'.v1 = t.v1 ∧ t'.sum = t.sum) ∧
  (∀ (s : State) (n : Nat) (v : Word64), n < 4 →
    ∃ t, exec (.wr (BitVec.ofNat 8 n) v) s = .next t ∧ Reference.keyAt t.key n = v.toNat ∧
      exec (.rd (BitVec.ofNat 8 n)) t = .next (Reference.answered t v false))

/-- `SUM` after `ENC` is `mask_48(P)` and after `DEC` is `mask_48(mask_40(P) - P)`, where `P = DELTA * ROUNDS` (R75). -/
def Obligations.SumAfterEncAndDec : Prop :=
  ∀ s : State,
    let p := s.cfg.delta.toNat * s.rounds.toNat
    ∃ t u, exec .enc s = .next t ∧ exec .dec s = .next u ∧
      t.sum.toNat = p % 2 ^ 48 ∧
      (u.sum.toNat : Int) = ((p % 2 ^ 40 : Nat) - (p : Int)) % 2 ^ 48 ∧
      u.sum.toNat % 2 ^ 40 = 0 ∧ (u.sum.toNat / 2 ^ 40 : Nat) = (-(p / 2 ^ 40 : Nat) : Int) % 2 ^ 8

/-- The table of R75, for the reference `DELTA` (the literal is unaudited, 91 N8): `SUM` after `ENC`, the model's start of `DEC`
(R71), and `SUM` after `DEC`. -/
def Obligations.SumTableForTheReferenceDelta : Prop :=
  ∀ row ∈ Reference.sumTable, ∀ s : State, s.cfg.delta = 0x9E38538A49#40 → s.rounds = BitVec.ofNat 32 row.1 →
    ∃ t u, exec .enc s = .next t ∧ exec .dec s = .next u ∧
      t.sum.toNat = row.2.1 ∧ (decStart s.cfg.delta s.rounds).toNat = row.2.2.1 ∧ u.sum.toNat = row.2.2.2

/-- The `SUM` an earlier command left is an input to no cipher command (R17, R75). -/
def Obligations.SumIsNoInputToACipherCommand : Prop :=
  ∀ (s : State) (x : Sum48),
    exec .enc { s with sum := x } = exec .enc s ∧ exec .dec { s with sum := x } = exec .dec s ∧
    (2 ≤ s.nblk.toNat → exec .dch { s with sum := x } = exec .dch s ∧ exec .run { s with sum := x } = exec .run s)

/-! ## The chain decryptor -/

/-- `DCH` puts in every block before the root what `DEC` gives of its low 40 bits, zero-extended; leaves every other chain word; and
changes only the chain, `V0`, `V1` and `SUM` (R76). -/
def Obligations.DchDeciphersEveryBlockBeforeTheRoot : Prop :=
  ∀ s : State, ∃ t, exec .dch s = .next t ∧
    t = Reference.answered { s with v0 := t.v0, v1 := t.v1, sum := t.sum, chw := t.chw } 0#64 false ∧
    (∀ i, i + 1 < s.nblk.toNat →
      let d := Reference.decTripleOf s (Reference.chainWord s (2 * i) % 2 ^ 40) (Reference.chainWord s (2 * i + 1) % 2 ^ 40)
      Reference.chainWord t (2 * i) = d.1 ∧ Reference.chainWord t (2 * i + 1) = d.2.1) ∧
    (∀ k, 2 * s.nblk.toNat ≤ k + 2 → Reference.chainWord t k = Reference.chainWord s k)

/-- The root block keeps all its bits, and a chain of no block or one is left as it is, with `V0`, `V1` and `SUM` (R77). -/
def Obligations.DchKeepsTheRootAndShortChains : Prop :=
  ∀ s : State,
    (s.nblk.toNat ≤ 1 → exec .dch s = .next (Reference.answered s 0#64 false)) ∧
    (1 ≤ s.nblk.toNat → ∃ t, exec .dch s = .next t ∧
      Reference.chainWord t (2 * s.nblk.toNat - 2) = Reference.chainWord s (2 * s.nblk.toNat - 2) ∧
      Reference.chainWord t (2 * s.nblk.toNat - 1) = Reference.chainWord s (2 * s.nblk.toNat - 1))

/-- After `DCH` of two blocks or more, `V0`, `V1` and `SUM` are those of the decipher of block 0, the last one processed (R76, R78). -/
def Obligations.DchLeavesBlockZeroInTheWorkingRegisters : Prop :=
  ∀ s : State, 2 ≤ s.nblk.toNat → ∃ t, exec .dch s = .next t ∧
    (t.v0.toNat, t.v1.toNat, t.sum.toNat) =
      Reference.decTripleOf s (Reference.chainWord s 0 % 2 ^ 40) (Reference.chainWord s 1 % 2 ^ 40) ∧
    t.v0.toNat = Reference.chainWord t 0 ∧ t.v1.toNat = Reference.chainWord t 1

/-- What `DCH` makes of a block depends on no other block of the chain (R78, 90 C4). -/
def Obligations.DchTakesEachBlockFromItselfAlone : Prop :=
  ∀ (s : State) (chw' : Vector Word64 14) (i : Nat),
    Reference.chainWord { s with chw := chw' } (2 * i) = Reference.chainWord s (2 * i) →
    Reference.chainWord { s with chw := chw' } (2 * i + 1) = Reference.chainWord s (2 * i + 1) →
    ∃ t t', exec .dch s = .next t ∧ exec .dch { s with chw := chw' } = .next t' ∧
      Reference.chainWord t' (2 * i) = Reference.chainWord t (2 * i) ∧
      Reference.chainWord t' (2 * i + 1) = Reference.chainWord t (2 * i + 1)

/-- A block `DCH` has written has bits 63:40 of both words zero; with `ROUNDS = 0` its bits 39:0 are unchanged (R76, R81, R108). -/
def Obligations.DchClearsTheHighBytes : Prop :=
  ∀ s : State, ∃ t, exec .dch s = .next t ∧ ∀ k, k + 2 < 2 * s.nblk.toNat →
    Reference.chainWord t k < 2 ^ 40 ∧
    (s.rounds = 0#32 → Reference.chainWord t k = Reference.chainWord s k % 2 ^ 40)

/-- A second `DCH` deciphers the deciphered blocks once more: each comes back as `DEC` of what the first left (R79, R105). -/
def Obligations.SecondDchDeciphersAgain : Prop :=
  ∀ s : State, ∃ t u, exec .dch s = .next t ∧ exec .dch t = .next u ∧
    ∀ i, i + 1 < s.nblk.toNat →
      let d := Reference.decTripleOf s (Reference.chainWord s (2 * i) % 2 ^ 40) (Reference.chainWord s (2 * i + 1) % 2 ^ 40)
      let d' := Reference.decTripleOf s d.1 d.2.1
      Reference.chainWord u (2 * i) = d'.1 ∧ Reference.chainWord u (2 * i + 1) = d'.2.1

/-! ## The glyph decoder -/

/-- `REN` appends the glyphs of the blocks `0 .. NBLK-1` in the order of R81, then one newline, and changes nothing else (R80 to R83). -/
def Obligations.RenAppendsTheGlyphsThenANewline : Prop :=
  ∀ s : State, exec .ren s = .next (Reference.answered { s with out := s.out ++ Reference.renGlyphs s } 0#64 false)

/-- One `REN` emits between 1 and `16 * NBLK + 1` glyphs, and nothing already emitted is removed (R23, R82). -/
def Obligations.RenEmitsBoundedlyMany : Prop :=
  ∀ s : State, ∃ t gs, exec .ren s = .next t ∧ t.out = s.out ++ gs ∧ 1 ≤ gs.length ∧ gs.length ≤ 16 * s.nblk.toNat + 1

/-- `REN` changes no state; a second one appends the same glyphs (R84). -/
def Obligations.RenTwiceEmitsTheSameTwice : Prop :=
  ∀ s : State, ∃ gs, exec .ren s = .next (Reference.answered { s with out := s.out ++ gs } 0#64 false) ∧
    exec .ren (Reference.answered { s with out := s.out ++ gs } 0#64 false) =
      .next (Reference.answered (Reference.answered { s with out := s.out ++ gs ++ gs } 0#64 false) 0#64 false)

/-- `RUN` leaves the state and the output trace of `DCH` followed by `REN`, with one answer `(0, 0)` (R85). -/
def Obligations.RunIsDchThenRen : Prop :=
  ∀ s : State, ∃ t u, exec .dch s = .next t ∧ exec .ren t = .next u ∧
    exec .run s = .next { u with resps := s.resps ++ [{ rdata := 0#64, rerr := false }] }

/-- A `RUN` of `n ≥ 1` blocks emits at most `10 * (n - 1) + 17` glyphs: ten from each deciphered block, sixteen from the root, the
newline (R81, R111). -/
def Obligations.RunEmitsAtMostTenPerDecipheredBlock : Prop :=
  ∀ s : State, 1 ≤ s.nblk.toNat → ∃ t gs, exec .run s = .next t ∧ t.out = s.out ++ gs ∧
    gs.length ≤ 10 * (s.nblk.toNat - 1) + 17 ∧ gs.getLast? = some 0x0A#21

/-- The reference run under any configuration: power-on, then the one command `RUN`, gives one answer `(0, 0)`, at most 77 glyphs
ending in a newline, the root block as it was, and every other block deciphered with 32 rounds under the reference key (R86, R111, R112). -/
def Obligations.ReferenceRunFromPowerOn : Prop :=
  ∀ c : Config, ∃ t, step (Reference.issued (State.powerOn c) ⟨0x1400#16, 0#64⟩) = .next t ∧
    t.resps = [{ rdata := 0#64, rerr := false }] ∧ t.cmds = [] ∧ t.out = Reference.renGlyphs t ∧ t.out.length ≤ 77 ∧
    (∀ i < 6,
      let d := Reference.repeatTimes (Reference.decRound c.delta.toNat (Reference.keyAt c.keyRef)) 32
        (Reference.chainWord (State.powerOn c) (2 * i) % 2 ^ 40, Reference.chainWord (State.powerOn c) (2 * i + 1) % 2 ^ 40,
          c.delta.toNat * 32 % 2 ^ 40)
      Reference.chainWord t (2 * i) = d.1 ∧ Reference.chainWord t (2 * i + 1) = d.2.1) ∧
    Reference.chainWord t 12 = Reference.chainWord (State.powerOn c) 12 ∧
    Reference.chainWord t 13 = Reference.chainWord (State.powerOn c) 13

/-! ## Housekeeping, reset -/

/-- `CLRE` clears `STATUS` and changes nothing else (R87). -/
def Obligations.ClreClearsStatusOnly : Prop :=
  ∀ s : State, exec .clre s = .next (Reference.answered { s with status := { err := false, cause := 0#4, fcmd := 0#16 } } 0#64 false)

/-- `RST` puts every piece of state to its reset value and leaves `OUT` and the configuration (R27, R88, R101). -/
def Obligations.RstRestoresEveryRegister : Prop :=
  ∀ s : State, exec .rst s = .next (Reference.answered
    { key := s.cfg.keyRef, v0 := 0#40, v1 := 0#40, sum := 0#48, rounds := 32#32, nblk := 7#3, chw := s.cfg.chainRef,
      status := { err := false, cause := 0#4, fcmd := 0#16 }, out := s.out, cfg := s.cfg, cmds := s.cmds, resps := s.resps } 0#64 false)

/-- The state after power-on reset (R27, R102): the registers by what `RD` of every one of them answers, `OUT` empty, and for this
hardware `DELTA` as R7 gives it. -/
def Obligations.PowerOnLeavesTheResetValues : Prop :=
  (∀ c : Config, (State.powerOn c).out = [] ∧
    ∀ n, Reference.regRead (State.powerOn c) n =
      if n < 4 then (c.keyRef.toList[n]?).map BitVec.toNat
      else if n = 4 ∨ n = 5 ∨ n = 6 ∨ n = 9 then some 0
      else if n = 7 then some 32 else if n = 8 then some 7 else if n = 10 then some c.delta.toNat
      else if n = 11 then some 56 else if n = 12 then some 7 else if n = 13 then some 0x3F
      else if 0x20 ≤ n ∧ n ≤ 0x2D then (c.chainRef.toList[n - 0x20]?).map BitVec.toNat
      else if 0x40 ≤ n ∧ n ≤ 0x77 then (c.gt.toList[n - 0x40]?).map BitVec.toNat
      else none) ∧
  State.reset = State.powerOn State.reset.cfg ∧ State.reset.cfg.delta = 0x9E38538A49#40

/-- `RD STATUS` answers `ERR` in bit 0, `CAUSE` in bits 7:4, `FCMD` in bits 31:16, and zeros elsewhere (R25). -/
def Obligations.StatusWordHasTheFieldsInPlace : Prop :=
  ∀ s : State, ∃ w : Word64, exec (.rd 0x09#8) s = .next (Reference.answered s w false) ∧
    w.getLsbD 0 = s.status.err ∧ w.extractLsb' 1 3 = 0#3 ∧ w.extractLsb' 4 4 = s.status.cause ∧ w.extractLsb' 8 8 = 0#8 ∧
    w.extractLsb' 16 16 = s.status.fcmd ∧ w.extractLsb' 32 32 = 0#32

/-! ## Whole-machine rules -/

/-- Every step keeps the invariant: a sound `STATUS`, a recorded fault only after an answer with `RERR = 1`, and `RDATA = 0` in every
such answer (R25, R47, R89, R90). -/
def Obligations.EveryStepKeepsTheFaultRecordSound : Prop :=
  ∀ s t : State, s.Inv → step s = .next t → t.Inv

/-- The reset state meets the invariant. -/
def Obligations.ResetMeetsTheFaultRecordInvariant : Prop := State.reset.Inv

/-- From a state that meets the invariant, a run that answers every command with `RERR = 0` never has a fault recorded (R25, R90). -/
def Obligations.CleanRunHasNoRecordedFault : Prop :=
  ∀ (n : Nat) (s t : State), s.Inv → Host.Core.run core n s = .next t → t.Clean → t.status.err = false

/-- No step changes the configuration: the constants and the glyph ROM are fixed for the life of the hardware (R14, R22). -/
def Obligations.NoStepChangesTheConfiguration : Prop :=
  ∀ s t : State, step s = .next t → t.cfg = s.cfg

/-- Only `REN` and `RUN` emit, and nothing removes a glyph from `OUT` (R23). -/
def Obligations.OutputOnlyGrowsAndOnlyByRenAndRun : Prop :=
  ∀ (s : State) (c : Command), ∃ t gs, step (Reference.issued s c) = .next t ∧ t.out = s.out ++ gs ∧
    (gs ≠ [] → c.cmd = 0x1300#16 ∨ c.cmd = 0x1400#16)

/-- Each register changes only by the commands that the map of R26 lists, by `WR` of it where the host may write it, or by `RST`
(R15 to R19, R21, R26). -/
def Obligations.RegistersChangeOnlyByTheListedCommands : Prop :=
  ∀ (s : State) (c : Command), ∃ t, step (Reference.issued s c) = .next t ∧
    let w := c.cmd.toNat
    (t.key ≠ s.key → 0x0100 ≤ w ∧ w ≤ 0x0103 ∨ w = 0x1F00) ∧
    (t.v0 ≠ s.v0 → w ∈ [0x0104, 0x1000, 0x1100, 0x1200, 0x1400, 0x1F00]) ∧
    (t.v1 ≠ s.v1 → w ∈ [0x0105, 0x1000, 0x1100, 0x1200, 0x1400, 0x1F00]) ∧
    (t.sum ≠ s.sum → w ∈ [0x1000, 0x1100, 0x1200, 0x1400, 0x1F00]) ∧
    (t.rounds ≠ s.rounds → w ∈ [0x0107, 0x1F00]) ∧
    (t.nblk ≠ s.nblk → w ∈ [0x0108, 0x1F00]) ∧
    (t.chw ≠ s.chw → 0x0120 ≤ w ∧ w ≤ 0x012D ∨ w ∈ [0x1200, 0x1400, 0x1F00])

/-- `ERR` is set by a command fault, cleared by `CLRE` and `RST`, and changed by nothing else (R25). -/
def Obligations.StatusChangesOnlyByFaultClreAndRst : Prop :=
  ∀ (s : State) (c : Command), ∃ t r, step (Reference.issued s c) = .next t ∧ t.resps = s.resps ++ [r] ∧
    (t.status ≠ s.status → r.rerr = true ∧ s.status.err = false ∨ c.cmd = 0x1E00#16 ∨ c.cmd = 0x1F00#16) ∧
    (s.status.err = true → t.status.err = false → c.cmd = 0x1E00#16 ∨ c.cmd = 0x1F00#16)

/-! ## Command sequences -/

/-- The call sequence of R58 for `Encipher` answers, by its last two `RD`s, the enciphered block: from any state whose host has issued
it, its ten commands run to the end and the last two answers are the block that `ENC` makes of the arguments' low 40 bits. -/
def Obligations.EncipherCallAnswersTheEncipheredBlock : Prop :=
  ∀ (s : State) (r a b k0 k1 k2 k3 : Nat), r < 2 ^ 32 → a < 2 ^ 64 → b < 2 ^ 64 →
    k0 < 2 ^ 64 → k1 < 2 ^ 64 → k2 < 2 ^ 64 → k3 < 2 ^ 64 →
    assemble (callEncipher r a b k0 k1 k2 k3) = some s.cmds →
    let key := fun n => [k0, k1, k2, k3].getD n 0
    let e := Reference.repeatTimes (Reference.encRound s.cfg.delta.toNat key) r (a % 2 ^ 40, b % 2 ^ 40, 0)
    ∃ t, Host.Core.run core 10 s = .next t ∧ t.cmds = [] ∧
      t.resps = s.resps ++ List.replicate 8 { rdata := 0#64, rerr := false } ++
        [{ rdata := BitVec.ofNat 64 e.1, rerr := false }, { rdata := BitVec.ofNat 64 e.2.1, rerr := false }]

/-- The same for `Decipher` (R58). -/
def Obligations.DecipherCallAnswersTheDecipheredBlock : Prop :=
  ∀ (s : State) (r a b k0 k1 k2 k3 : Nat), r < 2 ^ 32 → a < 2 ^ 64 → b < 2 ^ 64 →
    k0 < 2 ^ 64 → k1 < 2 ^ 64 → k2 < 2 ^ 64 → k3 < 2 ^ 64 →
    assemble (callDecipher r a b k0 k1 k2 k3) = some s.cmds →
    let key := fun n => [k0, k1, k2, k3].getD n 0
    let e := Reference.repeatTimes (Reference.decRound s.cfg.delta.toNat key) r
      (a % 2 ^ 40, b % 2 ^ 40, s.cfg.delta.toNat * r % 2 ^ 40)
    ∃ t, Host.Core.run core 10 s = .next t ∧ t.cmds = [] ∧
      t.resps = s.resps ++ List.replicate 8 { rdata := 0#64, rerr := false } ++
        [{ rdata := BitVec.ofNat 64 e.1, rerr := false }, { rdata := BitVec.ofNat 64 e.2.1, rerr := false }]
end

