-- ==== Sys2Proof/Laws/State.lean ====
section
/-!
SUPPORT. One lemma per field per update of the state, each true by unfolding the update once.
-/

namespace Sys2Proof.Machine

@[simp] theorem State.respond_key (s : State) (rd : Word64) (e : Bool) : (s.respond rd e).key = s.key := rfl
@[simp] theorem State.respond_v0 (s : State) (rd : Word64) (e : Bool) : (s.respond rd e).v0 = s.v0 := rfl
@[simp] theorem State.respond_v1 (s : State) (rd : Word64) (e : Bool) : (s.respond rd e).v1 = s.v1 := rfl
@[simp] theorem State.respond_sum (s : State) (rd : Word64) (e : Bool) : (s.respond rd e).sum = s.sum := rfl
@[simp] theorem State.respond_rounds (s : State) (rd : Word64) (e : Bool) : (s.respond rd e).rounds = s.rounds := rfl
@[simp] theorem State.respond_nblk (s : State) (rd : Word64) (e : Bool) : (s.respond rd e).nblk = s.nblk := rfl
@[simp] theorem State.respond_chw (s : State) (rd : Word64) (e : Bool) : (s.respond rd e).chw = s.chw := rfl
@[simp] theorem State.respond_status (s : State) (rd : Word64) (e : Bool) : (s.respond rd e).status = s.status := rfl
@[simp] theorem State.respond_out (s : State) (rd : Word64) (e : Bool) : (s.respond rd e).out = s.out := rfl
@[simp] theorem State.respond_cfg (s : State) (rd : Word64) (e : Bool) : (s.respond rd e).cfg = s.cfg := rfl
@[simp] theorem State.respond_cmds (s : State) (rd : Word64) (e : Bool) : (s.respond rd e).cmds = s.cmds := rfl
@[simp] theorem State.respond_resps (s : State) (rd : Word64) (e : Bool) : (s.respond rd e).resps = s.resps ++ [{ rdata := rd, rerr := e }] := rfl

@[simp] theorem State.completed_key (s : State) : s.completed.key = s.key := rfl
@[simp] theorem State.completed_v0 (s : State) : s.completed.v0 = s.v0 := rfl
@[simp] theorem State.completed_v1 (s : State) : s.completed.v1 = s.v1 := rfl
@[simp] theorem State.completed_sum (s : State) : s.completed.sum = s.sum := rfl
@[simp] theorem State.completed_rounds (s : State) : s.completed.rounds = s.rounds := rfl
@[simp] theorem State.completed_nblk (s : State) : s.completed.nblk = s.nblk := rfl
@[simp] theorem State.completed_chw (s : State) : s.completed.chw = s.chw := rfl
@[simp] theorem State.completed_status (s : State) : s.completed.status = s.status := rfl
@[simp] theorem State.completed_out (s : State) : s.completed.out = s.out := rfl
@[simp] theorem State.completed_cfg (s : State) : s.completed.cfg = s.cfg := rfl
@[simp] theorem State.completed_cmds (s : State) : s.completed.cmds = s.cmds := rfl
@[simp] theorem State.completed_resps (s : State) : s.completed.resps = s.resps ++ [{ rdata := 0#64, rerr := false }] := rfl

@[simp] theorem State.cmdFault_key (s : State) (k : Cause) (w : CmdWord) : (s.cmdFault k w).key = s.key := rfl
@[simp] theorem State.cmdFault_v0 (s : State) (k : Cause) (w : CmdWord) : (s.cmdFault k w).v0 = s.v0 := rfl
@[simp] theorem State.cmdFault_v1 (s : State) (k : Cause) (w : CmdWord) : (s.cmdFault k w).v1 = s.v1 := rfl
@[simp] theorem State.cmdFault_sum (s : State) (k : Cause) (w : CmdWord) : (s.cmdFault k w).sum = s.sum := rfl
@[simp] theorem State.cmdFault_rounds (s : State) (k : Cause) (w : CmdWord) : (s.cmdFault k w).rounds = s.rounds := rfl
@[simp] theorem State.cmdFault_nblk (s : State) (k : Cause) (w : CmdWord) : (s.cmdFault k w).nblk = s.nblk := rfl
@[simp] theorem State.cmdFault_chw (s : State) (k : Cause) (w : CmdWord) : (s.cmdFault k w).chw = s.chw := rfl
@[simp] theorem State.cmdFault_status (s : State) (k : Cause) (w : CmdWord) : (s.cmdFault k w).status = s.status.record k w := rfl
@[simp] theorem State.cmdFault_out (s : State) (k : Cause) (w : CmdWord) : (s.cmdFault k w).out = s.out := rfl
@[simp] theorem State.cmdFault_cfg (s : State) (k : Cause) (w : CmdWord) : (s.cmdFault k w).cfg = s.cfg := rfl
@[simp] theorem State.cmdFault_cmds (s : State) (k : Cause) (w : CmdWord) : (s.cmdFault k w).cmds = s.cmds := rfl
@[simp] theorem State.cmdFault_resps (s : State) (k : Cause) (w : CmdWord) : (s.cmdFault k w).resps = s.resps ++ [{ rdata := 0#64, rerr := true }] := rfl

@[simp] theorem State.clearFault_key (s : State) : s.clearFault.key = s.key := rfl
@[simp] theorem State.clearFault_v0 (s : State) : s.clearFault.v0 = s.v0 := rfl
@[simp] theorem State.clearFault_v1 (s : State) : s.clearFault.v1 = s.v1 := rfl
@[simp] theorem State.clearFault_sum (s : State) : s.clearFault.sum = s.sum := rfl
@[simp] theorem State.clearFault_rounds (s : State) : s.clearFault.rounds = s.rounds := rfl
@[simp] theorem State.clearFault_nblk (s : State) : s.clearFault.nblk = s.nblk := rfl
@[simp] theorem State.clearFault_chw (s : State) : s.clearFault.chw = s.chw := rfl
@[simp] theorem State.clearFault_status (s : State) : s.clearFault.status = Status.clear := rfl
@[simp] theorem State.clearFault_out (s : State) : s.clearFault.out = s.out := rfl
@[simp] theorem State.clearFault_cfg (s : State) : s.clearFault.cfg = s.cfg := rfl
@[simp] theorem State.clearFault_cmds (s : State) : s.clearFault.cmds = s.cmds := rfl
@[simp] theorem State.clearFault_resps (s : State) : s.clearFault.resps = s.resps := rfl

@[simp] theorem State.emit_key (s : State) (gs : List Glyph) : (s.emit gs).key = s.key := rfl
@[simp] theorem State.emit_v0 (s : State) (gs : List Glyph) : (s.emit gs).v0 = s.v0 := rfl
@[simp] theorem State.emit_v1 (s : State) (gs : List Glyph) : (s.emit gs).v1 = s.v1 := rfl
@[simp] theorem State.emit_sum (s : State) (gs : List Glyph) : (s.emit gs).sum = s.sum := rfl
@[simp] theorem State.emit_rounds (s : State) (gs : List Glyph) : (s.emit gs).rounds = s.rounds := rfl
@[simp] theorem State.emit_nblk (s : State) (gs : List Glyph) : (s.emit gs).nblk = s.nblk := rfl
@[simp] theorem State.emit_chw (s : State) (gs : List Glyph) : (s.emit gs).chw = s.chw := rfl
@[simp] theorem State.emit_status (s : State) (gs : List Glyph) : (s.emit gs).status = s.status := rfl
@[simp] theorem State.emit_out (s : State) (gs : List Glyph) : (s.emit gs).out = s.out ++ gs := rfl
@[simp] theorem State.emit_cfg (s : State) (gs : List Glyph) : (s.emit gs).cfg = s.cfg := rfl
@[simp] theorem State.emit_cmds (s : State) (gs : List Glyph) : (s.emit gs).cmds = s.cmds := rfl
@[simp] theorem State.emit_resps (s : State) (gs : List Glyph) : (s.emit gs).resps = s.resps := rfl

@[simp] theorem State.restore_key (s : State) : s.restore.key = s.cfg.keyRef := rfl
@[simp] theorem State.restore_v0 (s : State) : s.restore.v0 = 0#40 := rfl
@[simp] theorem State.restore_v1 (s : State) : s.restore.v1 = 0#40 := rfl
@[simp] theorem State.restore_sum (s : State) : s.restore.sum = 0#48 := rfl
@[simp] theorem State.restore_rounds (s : State) : s.restore.rounds = 32#32 := rfl
@[simp] theorem State.restore_nblk (s : State) : s.restore.nblk = 7#3 := rfl
@[simp] theorem State.restore_chw (s : State) : s.restore.chw = s.cfg.chainRef := rfl
@[simp] theorem State.restore_status (s : State) : s.restore.status = Status.clear := rfl
@[simp] theorem State.restore_out (s : State) : s.restore.out = s.out := rfl
@[simp] theorem State.restore_cfg (s : State) : s.restore.cfg = s.cfg := rfl
@[simp] theorem State.restore_cmds (s : State) : s.restore.cmds = s.cmds := rfl
@[simp] theorem State.restore_resps (s : State) : s.restore.resps = s.resps := rfl

@[simp] theorem State.withEngine_key (s : State) (e : Engine) : (s.withEngine e).key = s.key := rfl
@[simp] theorem State.withEngine_v0 (s : State) (e : Engine) : (s.withEngine e).v0 = e.v0 := rfl
@[simp] theorem State.withEngine_v1 (s : State) (e : Engine) : (s.withEngine e).v1 = e.v1 := rfl
@[simp] theorem State.withEngine_sum (s : State) (e : Engine) : (s.withEngine e).sum = e.sum := rfl
@[simp] theorem State.withEngine_rounds (s : State) (e : Engine) : (s.withEngine e).rounds = s.rounds := rfl
@[simp] theorem State.withEngine_nblk (s : State) (e : Engine) : (s.withEngine e).nblk = s.nblk := rfl
@[simp] theorem State.withEngine_chw (s : State) (e : Engine) : (s.withEngine e).chw = s.chw := rfl
@[simp] theorem State.withEngine_status (s : State) (e : Engine) : (s.withEngine e).status = s.status := rfl
@[simp] theorem State.withEngine_out (s : State) (e : Engine) : (s.withEngine e).out = s.out := rfl
@[simp] theorem State.withEngine_cfg (s : State) (e : Engine) : (s.withEngine e).cfg = s.cfg := rfl
@[simp] theorem State.withEngine_cmds (s : State) (e : Engine) : (s.withEngine e).cmds = s.cmds := rfl
@[simp] theorem State.withEngine_resps (s : State) (e : Engine) : (s.withEngine e).resps = s.resps := rfl

@[simp] theorem State.illegal_key (s : State) (c : Command) : (s.illegal c).key = s.key := rfl
@[simp] theorem State.illegal_v0 (s : State) (c : Command) : (s.illegal c).v0 = s.v0 := rfl
@[simp] theorem State.illegal_v1 (s : State) (c : Command) : (s.illegal c).v1 = s.v1 := rfl
@[simp] theorem State.illegal_sum (s : State) (c : Command) : (s.illegal c).sum = s.sum := rfl
@[simp] theorem State.illegal_rounds (s : State) (c : Command) : (s.illegal c).rounds = s.rounds := rfl
@[simp] theorem State.illegal_nblk (s : State) (c : Command) : (s.illegal c).nblk = s.nblk := rfl
@[simp] theorem State.illegal_chw (s : State) (c : Command) : (s.illegal c).chw = s.chw := rfl
@[simp] theorem State.illegal_status (s : State) (c : Command) : (s.illegal c).status = s.status.record .illegalCommand c.cmd := rfl
@[simp] theorem State.illegal_out (s : State) (c : Command) : (s.illegal c).out = s.out := rfl
@[simp] theorem State.illegal_cfg (s : State) (c : Command) : (s.illegal c).cfg = s.cfg := rfl
@[simp] theorem State.illegal_cmds (s : State) (c : Command) : (s.illegal c).cmds = s.cmds := rfl
@[simp] theorem State.illegal_resps (s : State) (c : Command) : (s.illegal c).resps = s.resps ++ [{ rdata := 0#64, rerr := true }] := rfl

@[simp] theorem State.issueFirst_key (s : State) (c : Command) : (s.issueFirst c).key = s.key := rfl
@[simp] theorem State.issueFirst_v0 (s : State) (c : Command) : (s.issueFirst c).v0 = s.v0 := rfl
@[simp] theorem State.issueFirst_v1 (s : State) (c : Command) : (s.issueFirst c).v1 = s.v1 := rfl
@[simp] theorem State.issueFirst_sum (s : State) (c : Command) : (s.issueFirst c).sum = s.sum := rfl
@[simp] theorem State.issueFirst_rounds (s : State) (c : Command) : (s.issueFirst c).rounds = s.rounds := rfl
@[simp] theorem State.issueFirst_nblk (s : State) (c : Command) : (s.issueFirst c).nblk = s.nblk := rfl
@[simp] theorem State.issueFirst_chw (s : State) (c : Command) : (s.issueFirst c).chw = s.chw := rfl
@[simp] theorem State.issueFirst_status (s : State) (c : Command) : (s.issueFirst c).status = s.status := rfl
@[simp] theorem State.issueFirst_out (s : State) (c : Command) : (s.issueFirst c).out = s.out := rfl
@[simp] theorem State.issueFirst_cfg (s : State) (c : Command) : (s.issueFirst c).cfg = s.cfg := rfl
@[simp] theorem State.issueFirst_cmds (s : State) (c : Command) : (s.issueFirst c).cmds = c :: s.cmds := rfl
@[simp] theorem State.issueFirst_resps (s : State) (c : Command) : (s.issueFirst c).resps = s.resps := rfl

end Sys2Proof.Machine
end

