-- ==== Sys2Proof/Laws/BlockTransform.lean ====
section
/-!
SUPPORT. What the round function and key selection depend on, and how the sum starts and moves (41_block_transform R62, R65, R66, R71).
-/

namespace Sys2Proof.Machine

/-- `F` reads only bits 39:0 of the sum and of the key word (R62). -/
theorem roundF_congr {x : Val40} {s s' : Sum48} {k k' : Word64}
    (hs : s.setWidth 40 = s'.setWidth 40) (hk : low40 k = low40 k') : roundF x s k = roundF x s' k' := by
  have hs' := congrArg BitVec.toNat hs
  have hk' := congrArg BitVec.toNat hk
  simp only [low40, BitVec.toNat_setWidth] at hs' hk'
  have : BitVec.ofNat 40 (s.toNat + k.toNat) = BitVec.ofNat 40 (s'.toNat + k'.toNat) := by
    apply BitVec.eq_of_toNat_eq
    simp only [BitVec.toNat_ofNat]
    omega
  simp only [roundF, this]

/-- A field of the sum below bit 40 is a field of its low 40 bits. -/
theorem extractLsb'_sum {s s' : Sum48} (hs : s.setWidth 40 = s'.setWidth 40) {lo : Nat} (h : lo + 2 ≤ 40) :
    s.extractLsb' lo 2 = s'.extractLsb' lo 2 := by
  ext i hi
  have := congrArg (fun w : Val40 => w.getLsbD (lo + i)) hs
  simpa [BitVec.getLsbD_setWidth, show lo + i < 40 by omega] using this

/-- Key selection reads only bits 39:0 of the sum (R65, R71). -/
theorem keySelLo_congr {key : Vector Word64 4} {s s' : Sum48} (hs : s.setWidth 40 = s'.setWidth 40) :
    keySelLo key s = keySelLo key s' := by
  simp only [keySelLo, extractLsb'_sum hs (lo := 0) (by omega)]

/-- Key selection reads only bits 39:0 of the sum (R65, R71). -/
theorem keySelHi_congr {key : Vector Word64 4} {s s' : Sum48} (hs : s.setWidth 40 = s'.setWidth 40) :
    keySelHi key s = keySelHi key s' := by
  simp only [keySelHi, extractLsb'_sum hs (lo := 11) (by omega)]

/-- A forward round advances the sum (R66, R67). -/
@[simp] theorem encRound_sum (delta : Val40) (key : Vector Word64 4) (e : Engine) :
    (encRound delta key e).sum = advance delta e.sum := rfl

/-- An inverse round retreats the sum (R66, R68). -/
@[simp] theorem decRound_sum (delta : Val40) (key : Vector Word64 4) (e : Engine) :
    (decRound delta key e).sum = retreat delta e.sum := rfl

/-- The retreat undoes the advance. -/
@[simp] theorem retreat_advance (delta : Val40) (s : Sum48) : retreat delta (advance delta s) = s := by
  simp [retreat, advance]

/-- The advance undoes the retreat. -/
@[simp] theorem advance_retreat (delta : Val40) (s : Sum48) : advance delta (retreat delta s) = s := by
  simp [retreat, advance]

/-- The sum a decipher starts from, as a number below `2^40` (R71). -/
@[simp] theorem decStart_toNat (delta : Val40) (rounds : BitVec 32) :
    (decStart delta rounds).toNat = delta.toNat * rounds.toNat % 2 ^ 40 := by
  simp only [decStart, BitVec.toNat_setWidth, BitVec.toNat_ofNat]
  omega

end Sys2Proof.Machine
end

