-- ==== Sys2Proof/Laws/Ops.lean ====
section
/-!
SUPPORT. What each shared operation can do, once: the provers cite these and need not unfold the operation.
-/

namespace Sys2Proof.Machine

/-! ### Recording a fault -/

/-- First fault wins. -/
@[simp] theorem Status.record_of_err {st : Status} (h : st.err = true) (k : Cause) (w : CmdWord) :
    st.record k w = st := by simp [Status.record, h]

/-- A fault is recorded when none is. -/
@[simp] theorem Status.record_of_not_err {st : Status} (h : st.err = false) (k : Cause) (w : CmdWord) :
    st.record k w = { err := true, cause := k.code, fcmd := w } := by simp [Status.record, h]

/-- After a fault one is recorded. -/
@[simp] theorem Status.record_err (st : Status) (k : Cause) (w : CmdWord) : (st.record k w).err = true := by
  cases h : st.err <;> simp [h]

/-! ### Register cells -/

/-- A read either finds the cell of the number or takes `BadRegister`. -/
theorem regRead_cases (s : State) (r : RegNo) :
    (∃ c, regCell r = some c ∧ regRead s r = .ok (readCell s c)) ∨
      (regCell r = none ∧ regRead s r = .error .badRegister) := by
  unfold regRead
  cases h : regCell r with
  | none => exact .inr ⟨rfl, rfl⟩
  | some c => exact .inl ⟨c, rfl, rfl⟩

/-- A write either reaches the cell of the number or takes `BadRegister`. -/
theorem regWrite_cases (s : State) (r : RegNo) (v : Word64) :
    (∃ c, regCell r = some c ∧ regWrite s r v = writeCell s v c) ∨
      (regCell r = none ∧ regWrite s r v = .error .badRegister) := by
  unfold regWrite
  cases h : regCell r with
  | none => exact .inr ⟨rfl, rfl⟩
  | some c => exact .inl ⟨c, rfl, rfl⟩

/-- What no write to a cell changes. -/
theorem writeCell_frame {s t : State} {v : Word64} {c : RegCell} (h : writeCell s v c = .ok t) :
    t.sum = s.sum ∧ t.status = s.status ∧ t.out = s.out ∧ t.cfg = s.cfg ∧ t.cmds = s.cmds ∧ t.resps = s.resps := by
  cases c <;> simp only [writeCell] at h
  case rounds => split at h <;> cases h; simp
  case nblk => split at h <;> cases h; simp
  all_goals first | (cases h; simp) | cases h

/-- What no register write changes. -/
theorem regWrite_frame {s t : State} {r : RegNo} {v : Word64} (h : regWrite s r v = .ok t) :
    t.sum = s.sum ∧ t.status = s.status ∧ t.out = s.out ∧ t.cfg = s.cfg ∧ t.cmds = s.cmds ∧ t.resps = s.resps := by
  obtain ⟨c, -, e⟩ | ⟨-, e⟩ := regWrite_cases s r v
  · exact writeCell_frame (e ▸ h)
  · rw [e] at h; cases h

/-! ### The chain -/

/-- Membership in the blocks `0 .. n-1`. -/
@[simp] theorem mem_blocksBelow {n : Nat} {i : Fin 7} : i ∈ blocksBelow n ↔ i.val < n := by
  have : ∀ i : Fin 7, i ∈ [(0 : Fin 7), 1, 2, 3, 4, 5, 6] := by decide
  simp only [blocksBelow, List.mem_filter, decide_eq_true_eq, this i, true_and]

/-- There are `min n 7` blocks below `n`. -/
theorem length_blocksBelow (n : Nat) : (blocksBelow n).length = min n 7 := by
  obtain h | h : n < 7 ∨ 7 ≤ n := by omega
  · interval_cases n <;> decide
  · have : ∀ i ∈ [(0 : Fin 7), 1, 2, 3, 4, 5, 6], decide (i.val < n) = true := by
      intro i _; simp; omega
    simp [blocksBelow, List.filter_eq_self.2 this, h]

/-- What deciphering one block leaves unchanged. -/
theorem decipherBlock_frame (s : State) (i : Fin 7) :
    (decipherBlock s i).key = s.key ∧ (decipherBlock s i).rounds = s.rounds ∧ (decipherBlock s i).nblk = s.nblk ∧
    (decipherBlock s i).status = s.status ∧ (decipherBlock s i).out = s.out ∧ (decipherBlock s i).cfg = s.cfg ∧
    (decipherBlock s i).cmds = s.cmds ∧ (decipherBlock s i).resps = s.resps := by
  simp [decipherBlock]

/-- What deciphering a list of blocks leaves unchanged. -/
theorem foldl_decipherBlock_frame (l : List (Fin 7)) (s : State) :
    (l.foldl decipherBlock s).key = s.key ∧ (l.foldl decipherBlock s).rounds = s.rounds ∧
    (l.foldl decipherBlock s).nblk = s.nblk ∧ (l.foldl decipherBlock s).status = s.status ∧
    (l.foldl decipherBlock s).out = s.out ∧ (l.foldl decipherBlock s).cfg = s.cfg ∧
    (l.foldl decipherBlock s).cmds = s.cmds ∧ (l.foldl decipherBlock s).resps = s.resps := by
  induction l generalizing s with
  | nil => simp
  | cons i l ih =>
    have h := decipherBlock_frame s i
    have h' := ih (decipherBlock s i)
    simp only [List.foldl_cons]
    refine ⟨?_, ?_, ?_, ?_, ?_, ?_, ?_, ?_⟩ <;> simp [h, h']

/-- What the operation of `DCH` leaves unchanged. -/
theorem decryptChain_frame (s : State) :
    (decryptChain s).key = s.key ∧ (decryptChain s).rounds = s.rounds ∧ (decryptChain s).nblk = s.nblk ∧
    (decryptChain s).status = s.status ∧ (decryptChain s).out = s.out ∧ (decryptChain s).cfg = s.cfg ∧
    (decryptChain s).cmds = s.cmds ∧ (decryptChain s).resps = s.resps :=
  foldl_decipherBlock_frame _ s

/-! ### Glyphs -/

/-- One word gives at most eight glyphs. -/
theorem length_glyphsOfWord_le (gt : Vector Glyph 56) (w : Word64) : (glyphsOfWord gt w).length ≤ 8 :=
  (List.length_filterMap_le _ _).trans (by decide)

/-- One block gives at most sixteen glyphs. -/
theorem length_glyphsOfBlock_le (s : State) (i : Fin 7) : (glyphsOfBlock s i).length ≤ 16 := by
  have h₀ := length_glyphsOfWord_le s.cfg.gt s.chw[chainIx i 0]
  have h₁ := length_glyphsOfWord_le s.cfg.gt s.chw[chainIx i 1]
  simp only [glyphsOfBlock, List.length_append]
  omega

end Sys2Proof.Machine
end

