-- ==== Sys2Proof/Laws/PerInstr.lean ====
section
/-!
SUPPORT. Statements about every instruction as syntax, one lemma per constructor.
-/

namespace Sys2Proof.Laws.EncodedWordIsLegal

/-- The encoded word selects a row of the opcode table (30_encoding R51), and its `OPC` and `REG` fields are the instruction's (R48). -/
def Statement (i : Instr) : Prop :=
  legalWord (encode i).cmd = true ∧ opcField (encode i).cmd = i.opc ∧ regField (encode i).cmd = i.regBits

theorem opcField_append (a b : BitVec 8) : opcField (a ++ b) = a := by
  simp only [opcField]
  ext k hk
  simp only [BitVec.getElem_extractLsb', BitVec.getLsbD_append]
  rw [if_neg (by omega), Nat.add_sub_cancel_left, BitVec.getLsbD_eq_getElem hk]

theorem regField_append (a b : BitVec 8) : regField (a ++ b) = b := by
  simp only [regField]
  ext k hk
  simp only [BitVec.getElem_extractLsb', BitVec.getLsbD_append]
  rw [if_pos (by omega), Nat.zero_add, BitVec.getLsbD_eq_getElem hk]

theorem of_legal {i : Instr} (h : legalWord (encode i).cmd = true) : Statement i :=
  ⟨h, opcField_append _ _, regField_append _ _⟩

theorem nop : Statement .nop := of_legal (by decide)
theorem wr (reg : RegNo) (data : Word64) : Statement (.wr reg data) :=
  of_legal ((by decide +kernel : ∀ r : RegNo, legalWord (0x01#8 ++ r) = true) reg)
theorem rd (reg : RegNo) : Statement (.rd reg) :=
  of_legal ((by decide +kernel : ∀ r : RegNo, legalWord (0x02#8 ++ r) = true) reg)
theorem enc : Statement .enc := of_legal (by decide)
theorem dec : Statement .dec := of_legal (by decide)
theorem dch : Statement .dch := of_legal (by decide)
theorem ren : Statement .ren := of_legal (by decide)
theorem run : Statement .run := of_legal (by decide)
theorem clre : Statement .clre := of_legal (by decide)
theorem rst : Statement .rst := of_legal (by decide)

end Sys2Proof.Laws.EncodedWordIsLegal
end

