-- ==== Sys2Proof/Laws/Step.lean ====
section
/-!
SUPPORT. What a step, and one command, can do: the lemmas that statements about every step are derived from.
-/

namespace Sys2Proof.Machine

/-- The opcode field as a quotient. -/
theorem opcField_toNat (w : CmdWord) : (opcField w).toNat = w.toNat / 256 := by
  simp [opcField, BitVec.extractLsb'_toNat, Nat.shiftRight_eq_div_pow]
  omega

/-- The register field as a remainder. -/
theorem regField_toNat (w : CmdWord) : (regField w).toNat = w.toNat % 256 := by
  simp [regField, BitVec.extractLsb'_toNat]

/-- What a step does: nothing when no command is issued, the decoded instruction, or the fault of an illegal word. -/
theorem step_cases {s t : State} (h : step s = .next t) :
    (s.cmds = [] ∧ t = s) ∨
    ∃ c rest, s.cmds = c :: rest ∧
      ((∃ i, decode c = .ok i ∧ exec i { s with cmds := rest } = .next t) ∨
       (∃ e, decode c = .error e ∧ t = { s with cmds := rest }.illegal c)) := by
  unfold step State.take at h
  cases hc : s.cmds with
  | nil => simp only [hc] at h; cases h; exact .inl ⟨rfl, rfl⟩
  | cons c rest =>
    simp only [hc] at h
    refine .inr ⟨c, rest, rfl, ?_⟩
    cases hd : decode c with
    | ok i => simp only [hd] at h; exact .inl ⟨i, rfl, h⟩
    | error e => simp only [hd] at h; cases h; exact .inr ⟨e, rfl, rfl⟩

/-- What `WR` does: the write and the answer, or the fault. -/
theorem execWr_cases (r : RegNo) (v : Word64) (s : State) :
    (∃ t, regWrite s r v = .ok t ∧ execWr r v s = .next t.completed) ∨
    (∃ k, regWrite s r v = .error k ∧ execWr r v s = .next (s.cmdFault k (encode (.wr r v)).cmd)) := by
  unfold execWr
  cases h : regWrite s r v with
  | ok t => exact .inl ⟨t, rfl, rfl⟩
  | error k => exact .inr ⟨k, rfl, rfl⟩

/-- What `RD` does: the value, or the fault. -/
theorem execRd_cases (r : RegNo) (s : State) :
    (∃ c, regCell r = some c ∧ execRd r s = .next (s.respond (readCell s c) false)) ∨
    (regCell r = none ∧ execRd r s = .next (s.cmdFault .badRegister (encode (.rd r)).cmd)) := by
  unfold execRd
  obtain ⟨c, hc, e⟩ | ⟨hc, e⟩ := regRead_cases s r <;> rw [e]
  · exact .inl ⟨c, hc, rfl⟩
  · exact .inr ⟨hc, rfl⟩

end Sys2Proof.Machine
end

