-- ==== Sys2Proof/Tests/Slice0.lean ====
section
/-!
SUPPORT. Small tests, each expected value taken from the spec's vectors (95_test_vectors) or its worked examples, and for
every statement with hypotheses a witness that meets them. Elaboration is kept to one thread: each kernel evaluation would
otherwise hold a thread of its own, and many at once exhaust the memory the check allows.
-/

set_option Elab.async false

namespace Sys2Proof.Tests

open Sys2Proof.Machine

/-! ### Fixtures (95 section 0) -/

/-- The fixture configuration: `KEY_REF_T`, `CHAIN_REF_T`, `GT_T`. -/
def cfgT : Config :=
  { keyRef := #v[0xA0#64, 0xA1#64, 0xA2#64, 0xA3#64],
    chainRef := Vector.ofFn fun k => BitVec.ofNat 64 (0x1000 + k.val),
    gt := Vector.ofFn fun b => BitVec.ofNat 21 (0x40 + b.val) }

/-- Power-on reset with the fixture configuration. -/
def st0 : State := State.powerOn cfgT

/-- The key `K1`. -/
def k1 : Vector Word64 4 := #v[1#64, 2#64, 3#64, 4#64]

/-- The key `K2`. -/
def k2 : Vector Word64 4 := #v[0x0123456789ABCDEF#64, 0xFEDCBA9876543210#64, 0x0F1E2D3C4B5A6978#64, 0x8796A5B4C3D2E1F0#64]

/-- The key `K2lo`: `K2` with bits 63:40 of every word cleared. -/
def k2lo : Vector Word64 4 := #v[0x6789ABCDEF#64, 0x9876543210#64, 0x3C4B5A6978#64, 0xB4C3D2E1F0#64]

/-- The chain of 95 section 2.5, with `V0 = 0x77`, `V1 = 0x88`. -/
def chainT (n : BitVec 3) : State :=
  { st0 with key := k1, nblk := n, v0 := 0x77#40, v1 := 0x88#40,
             chw := #v[0x000000D171B96E00#64, 0x000000435C183E15#64, 0x000000665040FFF5#64, 0x00000069B1CC49AB#64,
                       0xFF00000000000003#64, 0x3700000000000038#64, 0x1006#64, 0x1007#64, 0x1008#64, 0x1009#64,
                       0x100A#64, 0x100B#64, 0x100C#64, 0x100D#64] }

/-- A step that answers a next state of which `p` holds. -/
def stepsTo (s : State) (cmd : CmdWord) (wdata : Word64) (p : State → Bool) : Bool :=
  match step (s.issueFirst ⟨cmd, wdata⟩) with
  | .next t => p t
  | _ => false

/-- The last answer. -/
def lastIs (t : State) (rdata : Word64) (rerr : Bool) : Bool := t.resps.getLast? == some ⟨rdata, rerr⟩

/-! ### Decoding, words written out from the encodings (30 R51, 95 section 2.1) -/

theorem test_decode_register_access :
    decode ⟨0b0000000000000000#16, 0xFFFF#64⟩ = .ok .nop ∧ decode ⟨0b0000000100101101#16, 5#64⟩ = .ok (.wr 0x2D#8 5#64) ∧
    decode ⟨0b0000001000000110#16, 5#64⟩ = .ok (.rd 0x06#8) := by decide
theorem test_decode_block_transform :
    decode ⟨0b0001000000000000#16, 0#64⟩ = .ok .enc ∧ decode ⟨0b0001000100000000#16, 0#64⟩ = .ok .dec := by decide
theorem test_decode_chain_and_glyphs :
    decode ⟨0b0001001000000000#16, 0#64⟩ = .ok .dch ∧ decode ⟨0b0001001100000000#16, 0#64⟩ = .ok .ren ∧
    decode ⟨0b0001010000000000#16, 0#64⟩ = .ok .run := by decide
theorem test_decode_housekeeping :
    decode ⟨0b0001111000000000#16, 0#64⟩ = .ok .clre ∧ decode ⟨0b0001111100000000#16, 0#64⟩ = .ok .rst := by decide
theorem test_decode_unmapped_is_legal :
    decode ⟨0x012E#16, 0#64⟩ = .ok (.wr 0x2E#8 0#64) ∧ decode ⟨0x0278#16, 0#64⟩ = .ok (.rd 0x78#8) := by decide
theorem test_decode_refuses_undefined_opcodes :
    [0x0300#16, 0x0F00#16, 0x1500#16, 0x1D00#16, 0x2000#16, 0xFFFF#16].all
      (fun w => decode ⟨w, 0#64⟩ matches .error (.undefinedOpcode _)) = true := by decide
theorem test_decode_refuses_nonzero_reg :
    [0x0001#16, 0x1001#16, 0x1F80#16].all (fun w => decode ⟨w, 0#64⟩ matches .error (.regNotZero _ _)) = true := by decide
theorem test_decodeTableWord : decodeTableWord 16 0x0104 = some (.wr 0x04#8 0#64) ∧ decodeTableWord 16 0x1001 = none := by decide
theorem test_listing :
    Command.listing (encode (.wr 0x04#8 0xFFFFFF0123456789#64)) = "0104:FFFFFF0123456789".toList := by decide +kernel

/-! ### Well-formedness: for each check an ill-formed term that it refuses -/

theorem test_legalWord_refuses_undefined_opcode : legalWord 0x0300#16 = false := by decide
theorem test_legalWord_refuses_nonzero_reg : legalWord 0x1001#16 = false := by decide
theorem test_asm_refuses_register_out_of_range :
    (AsmReg.key 4).wf = false ∧ (AsmReg.chw 14).wf = false ∧ (AsmReg.gt 56).wf = false ∧ (AsmReg.raw 256).wf = false := by decide
theorem test_asm_refuses_value_out_of_range :
    (AsmLine.wr .v0 (2 ^ 64)).wf = false ∧ (AsmLine.ldblk 0 (2 ^ 64)).wf = false ∧ (AsmLine.ldkey 0 0 (2 ^ 64) 0).wf = false ∧
    (AsmLine.ldch 0 (2 ^ 64) 0).wf = false := by decide
theorem test_asm_refuses_block_out_of_range : (AsmLine.ldch 7 0 0).wf = false ∧ (AsmLine.rdch 7).wf = false := by decide
theorem test_asm_refuses_register_in_rd : (AsmLine.rd (.raw 256)).wf = false := by decide

/-! ### Assembler text (30 R57, 40 R60) -/

theorem test_parse_wr_and_comment :
    parseLine "WR V0, 0xFFFFFF0123456789 ; truncates".toList = some (.wr .v0 0xFFFFFF0123456789) := by decide +kernel
theorem test_parse_raw_register : parseLine "RD r0x2E".toList = some (.rd (.raw 0x2E)) := by decide +kernel

/-! ### Register access (95 section 2.2) -/

theorem test_nop_ignores_wdata : stepsTo st0 0x0000#16 0xFFFF#64 (fun t => t == st0.completed) = true := by decide +kernel
theorem test_wr_v0_truncates :  -- T-R8
    stepsTo st0 0x0104#16 0xFFFFFF0123456789#64 (fun t => t.v0 == 0x0123456789#40 && lastIs t 0#64 false) = true := by decide +kernel
theorem test_wr_rounds_too_wide_faults :  -- T-R13
    stepsTo st0 0x0107#16 0x100000000#64
      (fun t => t.rounds == 32#32 && t.status.word == 0x01070041#64 && lastIs t 0#64 true) = true := by decide +kernel
theorem test_rd_glyph_rom : stepsTo st0 0x0241#16 0#64 (fun t => lastIs t 0x41#64 false) = true := by decide +kernel  -- T-R7
theorem test_rd_unmapped_faults :  -- T-R19
    stepsTo st0 0x022E#16 0#64 (fun t => t.status.word == 0x022E0021#64 && lastIs t 0#64 true) = true := by decide +kernel

/-! ### Command faults (95 section 2.7) -/

theorem test_illegal_word_faults :  -- T-X1
    stepsTo st0 0x0300#16 0#64 (fun t => t.status.word == 0x03000011#64 && lastIs t 0#64 true) = true := by decide +kernel
theorem test_first_fault_wins :  -- T-X5
    stepsTo { st0 with status := ⟨true, 1#4, 0x1001#16⟩ } 0x0106#16 5#64
      (fun t => t.status.word == 0x10010011#64 && lastIs t 0#64 true) = true := by decide +kernel

/-! ### The round function and the cipher (95 sections 2.3 and 2.4) -/

theorem test_roundF_vectors :  -- T-F1 to T-F9
    roundF 0#40 0#48 0#64 = 0#40 ∧ roundF 1#40 0#48 0#64 = 0x11#40 ∧ roundF 0x1F#40 0#48 0#64 = 0x20F#40 ∧
    roundF 0x20#40 0#48 0#64 = 0x221#40 ∧ roundF 0x0800000000#40 0#48 0#64 = 0x8840000000#40 ∧
    roundF 0x8000000000#40 0#48 0#64 = 0x8400000000#40 ∧ roundF 0xFFFFFFFFFF#40 0#48 0#64 = 0xF80000000E#40 ∧
    roundF 0#40 0xFFFFFFFFFFFF#48 1#64 = 0#40 ∧
    roundF 0xFFFFFFFFFF#40 0xFFFFFFFFFFFF#48 0xFFFFFFFFFFFFFFFF#64 = 0x07FFFFFFF0#40 := by decide +kernel
theorem test_roundF_ignores_high_bits :  -- T-F10 to T-F12
    roundF 0x0123456789#40 0x009E38538A49#48 0x0123456789ABCDEF#64 = 0x16A16EE30D#40 ∧
    roundF 0x0123456789#40 0x009E38538A49#48 0x6789ABCDEF#64 = 0x16A16EE30D#40 ∧
    roundF 0x0123456789#40 0xAB9E38538A49#48 0x0123456789ABCDEF#64 = 0x16A16EE30D#40 := by decide +kernel
theorem test_roundF64_agrees :  -- 95 section 2.3, after T-F12
    (roundF64 0xFFFFFF0123456789#64 0x009E38538A49#48 0x0123456789ABCDEF#64).setWidth 40 = 0x16A16EE30D#40 := by decide +kernel
theorem test_enc_two_rounds :  -- T-E11
    stepsTo { st0 with key := k1, rounds := 2#32, v0 := 1#40, v1 := 2#40 } 0x1000#16 0#64
      (fun t => t.v0 == 0x1B951E2D5E#40 && t.v1 == 0x878B22CDAD#40 && t.sum == 0x013C70A71492#48) = true := by decide +kernel
theorem test_enc_thirty_two_rounds :  -- T-E22
    stepsTo { st0 with key := k2, v0 := 0x0123456789#40, v1 := 0xABCDEF0123#40 } 0x1000#16 0#64
      (fun t => t.v0 == 0x1A3D82FF92#40 && t.v1 == 0xF3385C25DA#40 && t.sum == 0x13C70A714920#48) = true := by decide +kernel
theorem test_dec_two_rounds :  -- 95 section 2.4, the second trace
    stepsTo { st0 with key := k1, rounds := 2#32, v0 := 0x1B951E2D5E#40, v1 := 0x878B22CDAD#40 } 0x1100#16 0#64
      (fun t => t.v0 == 1#40 && t.v1 == 2#40 && t.sum == 0xFF0000000000#48) = true := by decide +kernel
theorem test_dec_thirty_three_rounds :  -- T-E30
    stepsTo { st0 with key := k2, rounds := 33#32, v0 := 0x48656C6C6F#40, v1 := 0x576F726C64#40 } 0x1100#16 0#64
      (fun t => t.v0 == 0x8298CBD684#40 && t.v1 == 0xAA212BB445#40 && t.sum == 0xEC0000000000#48) = true := by decide +kernel

/-! ### The chain (95 section 2.5) -/

theorem test_dch_three_blocks :  -- T-C4
    stepsTo (chainT 3#3) 0x1200#16 0#64 (fun t =>
      t.chw.toList.take 6 == [0x08050C0C0F#64, 0x170F120C04#64, 0x0100000002#64, 0#64, 0xFF00000000000003#64, 0x3700000000000038#64]
      && t.v0 == 0x08050C0C0F#40 && t.v1 == 0x170F120C04#40 && t.sum == 0xED0000000000#48) = true := by decide +kernel
theorem test_dch_one_block_is_root :  -- T-C2
    stepsTo (chainT 1#3) 0x1200#16 0#64 (fun t => t.chw == (chainT 1#3).chw && t.v0 == 0x77#40 && t.v1 == 0x88#40) = true := by
  decide +kernel

/-! ### Glyphs (95 section 2.6, section 3) -/

theorem test_ren_table_edges :  -- T-G2
    stepsTo { st0 with nblk := 1#3, chw := (st0.chw.set 0 0x0100000002000000#64).set 1 0x3738#64 } 0x1300#16 0#64
      (fun t => t.out == [0x41#21, 0x42#21, 0x77#21, 0x3F#21, 0x0A#21]) = true := by decide +kernel
theorem test_ren_no_block : stepsTo (chainT 0#3) 0x1300#16 0#64 (fun t => t.out == [0x0A#21]) = true := by decide +kernel  -- T-G4
theorem test_run_hello_world :  -- P2
    stepsTo (chainT 3#3) 0x1400#16 0#64 (fun t => t.out.map BitVec.toNat ==
      [0x48, 0x45, 0x4C, 0x4C, 0x4F, 0x57, 0x4F, 0x52, 0x4C, 0x44, 0x41, 0x42, 0x3F, 0x43, 0x77, 0x3F, 0x0A]) = true := by
  decide +kernel
theorem test_run_reference_fixture :  -- P4
    stepsTo st0 0x1400#16 0#64 (fun t => t.out.length == 65 && t.v0 == 0xD736DE51A3#40 && t.v1 == 0x4343C359D7#40 &&
      t.chw.toList.drop 10 == [0xF2E0CB632D#64, 0x118472D233#64, 0x100C#64, 0x100D#64] && t.sum == 0xED0000000000#48) = true := by
  decide +kernel

/-! ### Housekeeping (44 R87, R88) -/

theorem test_clre : stepsTo { st0 with status := ⟨true, 2#4, 0x022E#16⟩ } 0x1E00#16 0#64 (fun t => t.status.word == 0#64) = true := by
  decide +kernel
theorem test_rst_keeps_out :
    stepsTo { chainT 3#3 with out := [0x0A#21], status := ⟨true, 1#4, 0x0300#16⟩ } 0x1F00#16 0#64
      (fun t => t == { st0.completed with out := [0x0A#21] }) = true := by decide +kernel

/-! ### Witnesses: for each statement with hypotheses, data that meet them -/

theorem witness_DecodedInstructionEncodesToItsWord : decode ⟨0x0107#16, 9#64⟩ = .ok (.wr 0x07#8 9#64) := by decide
theorem witness_DecodeFollowsTheOneRowSelected :
    decode ⟨0x1F00#16, 0#64⟩ = .ok .rst ∧ legalWord 0x1F01#16 = false := by decide
theorem witness_IllegalWordIsOfOneOfTwoKinds :
    (0x15FF#16).toNat / 256 ∉ [0x00, 0x01, 0x02, 0x10, 0x11, 0x12, 0x13, 0x14, 0x1E, 0x1F] ∧
    (0x14FF#16).toNat / 256 ∈ [0x00, 0x10, 0x11, 0x12, 0x13, 0x14, 0x1E, 0x1F] ∧ (0x1401#16).toNat % 256 ≠ 0 := by decide
theorem witness_StepRunsTheDecodedInstruction :
    (st0.issueFirst ⟨0x1000#16, 0#64⟩).cmds = ⟨0x1000#16, 0#64⟩ :: [] ∧ decode ⟨0x1000#16, 0#64⟩ = .ok .enc := by decide
theorem witness_StepOfIllegalWordTakesTheFault : legalWord 0xFFFF#16 = false := by decide
theorem witness_StepWithNoCommandKeepsAllState : State.reset.cmds = [] := rfl
theorem witness_StepAnswersEachCommandOnce :
    stepsTo st0 0x02FF#16 0#64 (fun t => lastIs t 0#64 true) = true ∧
    stepsTo st0 0x0207#16 0#64 (fun t => lastIs t 0x20#64 false) = true := by decide +kernel
theorem witness_FaultIsTheFirstFailedCheck_causes :
    causeOf ⟨0x0001#16, 0#64⟩ = some 1#4 ∧ causeOf ⟨0x010E#16, 5#64⟩ = some 2#4 ∧ causeOf ⟨0x0278#16, 0#64⟩ = some 2#4 ∧
    causeOf ⟨0x0106#16, 0x10000000000#64⟩ = some 3#4 ∧ causeOf ⟨0x0140#16, 0#64⟩ = some 3#4 ∧ causeOf ⟨0x0177#16, 0#64⟩ = some 3#4 ∧
    causeOf ⟨0x0107#16, 0x100000000#64⟩ = some 4#4 ∧ causeOf ⟨0x0108#16, 8#64⟩ = some 4#4 := by decide +kernel
theorem witness_FaultIsTheFirstFailedCheck_none :
    [(0x0107#16, 0xFFFFFFFF#64), (0x0108#16, 7#64), (0x0206#16, 0#64), (0x0277#16, 0#64), (0x012D#16, 1#64), (0x1000#16, 1#64)].all
      (fun p => causeOf ⟨p.1, p.2⟩ == none) = true := by decide +kernel
theorem witness_RecordedFaultBlocksNoCommand : Instr.rd 0x08#8 ≠ .rd 0x09#8 ∧ Instr.enc ≠ .rd 0x09#8 := by decide
theorem witness_RdAnswersTheRegister :
    [0x00, 0x03, 0x04, 0x05, 0x06, 0x07, 0x08, 0x09, 0x0A, 0x0B, 0x0C, 0x0D, 0x20, 0x2D, 0x40, 0x77].all
      (fun n => (Reference.regRead st0 n).isSome) = true := by decide +kernel
theorem witness_RdOfUnmappedNumberFaults :
    ∀ n ∈ [0x0E, 0x1F, 0x2E, 0x3F, 0x78, 0xFF], ¬ mappedNumber n ∧ Reference.regRead st0 n = none := by decide +kernel
theorem witness_WrWritesTheNamedCellOnly :
    [(0x00#8, 1#64), (0x03#8, 1#64), (0x04#8, 1#64), (0x05#8, 1#64), (0x07#8, 0xFFFFFFFF#64), (0x08#8, 7#64), (0x20#8, 1#64),
      (0x2D#8, 1#64)].all (fun p => causeOf ⟨Reference.wordOf 1 p.1, p.2⟩ == none) = true := by decide +kernel
theorem witness_RefusedWrWritesOnlyStatus :
    ¬ mappedNumber (0x2E#8).toNat ∧ readOnlyNumber (0x0D#8).toNat ∧ readOnlyNumber (0x77#8).toNat ∧
    ((0x07#8).toNat = 7 ∧ 2 ^ 32 ≤ (0x100000000#64).toNat) ∧ ((0x08#8).toNat = 8 ∧ 7 < (8#64).toNat) := by decide
theorem witness_RdAfterWrAnswersWhatWasWritten :
    causeOf ⟨Reference.wordOf 1 0x04#8, 0xFFFFFFFFFFFFFFFF#64⟩ = none ∧ causeOf ⟨Reference.wordOf 1 0x2D#8, 1#64⟩ = none := by
  decide +kernel
theorem witness_WrLeavesEveryOtherRegister :
    (0x20#8 : RegNo) ≠ 0x21#8 ∧ causeOf ⟨Reference.wordOf 1 0x20#8, 1#64⟩ = none ∧ Reference.regRead st0 0x21 = some 0x1001 := by
  decide +kernel
theorem witness_InverseRoundUndoesForwardRound :
    (0xFF9E38538A49#48).setWidth 40 = (encRound cfgT.delta k1 ⟨1#40, 2#40, 0#48⟩).sum.setWidth 40 := by decide +kernel
theorem witness_ZeroRoundsLeaveTheBlock : { st0 with rounds := 0#32 }.rounds = 0#32 := rfl
theorem witness_HighKeyBitsNeverMatter :
    k2 ≠ k2lo ∧ ∀ n < 4, Reference.keyAt k2 n % 2 ^ 40 = Reference.keyAt k2lo n % 2 ^ 40 := by decide +kernel
theorem witness_SumTableForTheReferenceDelta :
    st0.cfg.delta = 0x9E38538A49#40 ∧ st0.rounds = BitVec.ofNat 32 32 ∧
    (32, 0x13C70A714920, 0x00C70A714920, 0xED0000000000) ∈ Reference.sumTable := by decide
theorem witness_SumIsNoInputToACipherCommand : 2 ≤ (chainT 2#3).nblk.toNat ∧ 2 ≤ (chainT 7#3).nblk.toNat := by decide
theorem witness_DchDeciphersEveryBlockBeforeTheRoot :
    5 + 1 < (chainT 7#3).nblk.toNat ∧ 2 * (chainT 7#3).nblk.toNat ≤ 12 + 2 ∧ 2 * (chainT 0#3).nblk.toNat ≤ 0 + 2 := by decide
theorem witness_DchKeepsTheRootAndShortChains :
    (chainT 0#3).nblk.toNat ≤ 1 ∧ (chainT 1#3).nblk.toNat ≤ 1 ∧ 1 ≤ (chainT 1#3).nblk.toNat ∧ 1 ≤ (chainT 7#3).nblk.toNat := by decide
theorem witness_DchLeavesBlockZeroInTheWorkingRegisters : 2 ≤ (chainT 2#3).nblk.toNat := by decide
theorem witness_DchTakesEachBlockFromItselfAlone :
    let chw' := (chainT 3#3).chw.set 2 0#64
    chw' ≠ (chainT 3#3).chw ∧
    Reference.chainWord { chainT 3#3 with chw := chw' } (2 * 0) = Reference.chainWord (chainT 3#3) (2 * 0) ∧
    Reference.chainWord { chainT 3#3 with chw := chw' } (2 * 0 + 1) = Reference.chainWord (chainT 3#3) (2 * 0 + 1) := by decide +kernel
theorem witness_DchClearsTheHighBytes :
    11 + 2 < 2 * (chainT 7#3).nblk.toNat ∧ { chainT 7#3 with rounds := 0#32 }.rounds = 0#32 := by decide
theorem witness_SecondDchDeciphersAgain : 1 + 1 < (chainT 3#3).nblk.toNat := by decide
theorem witness_RunEmitsAtMostTenPerDecipheredBlock : 1 ≤ (chainT 1#3).nblk.toNat ∧ 1 ≤ st0.nblk.toNat := by decide

/-- A state that meets the invariant with a fault recorded. -/
def faultedT : State := { st0 with status := ⟨true, 2#4, 0x022E#16⟩, resps := [⟨0#64, true⟩] }

theorem witness_EveryStepKeepsTheFaultRecordSound :
    faultedT.Inv ∧ stepsTo faultedT 0x0300#16 0#64 (fun t => t.status == faultedT.status) = true := by
  refine ⟨⟨⟨by decide, fun _ => ⟨0#64, by decide +kernel⟩⟩, by decide, by decide⟩, by decide +kernel⟩
theorem witness_CleanRunHasNoRecordedFault :
    (st0.issueFirst ⟨0x0000#16, 0#64⟩).Inv ∧ Host.Core.run core 1 (st0.issueFirst ⟨0x0000#16, 0#64⟩) = .next st0.completed ∧
    st0.completed.Clean ∧ st0.completed.resps ≠ [] :=
  ⟨⟨⟨fun _ => ⟨rfl, rfl⟩, fun h => absurd h (by decide)⟩, fun h => absurd h (by decide), fun _ h => absurd h List.not_mem_nil⟩,
    rfl, by unfold State.Clean; decide, by decide⟩
theorem witness_NoStepChangesTheConfiguration :
    step (st0.issueFirst ⟨0x1F00#16, 0#64⟩) = .next st0.completed ∧ step st0 = .next st0 := ⟨rfl, rfl⟩
theorem witness_OutputOnlyGrowsAndOnlyByRenAndRun : stepsTo st0 0x1300#16 0#64 (fun t => t.out != st0.out) = true := by decide +kernel
theorem witness_RegistersChangeOnlyByTheListedCommands :
    stepsTo st0 0x0103#16 0#64 (fun t => t.key != st0.key) = true ∧ stepsTo st0 0x1000#16 0#64 (fun t => t.v0 != st0.v0) = true ∧
    stepsTo st0 0x1100#16 0#64 (fun t => t.v1 != st0.v1 && t.sum != st0.sum) = true ∧
    stepsTo st0 0x0107#16 0#64 (fun t => t.rounds != st0.rounds) = true ∧
    stepsTo st0 0x0108#16 0#64 (fun t => t.nblk != st0.nblk) = true ∧
    stepsTo st0 0x012D#16 0#64 (fun t => t.chw != st0.chw) = true := by decide +kernel
theorem witness_StatusChangesOnlyByFaultClreAndRst :
    stepsTo st0 0x0300#16 0#64 (fun t => t.status != st0.status) = true ∧
    faultedT.status.err = true ∧ stepsTo faultedT 0x1E00#16 0#64 (fun t => !t.status.err) = true := by decide +kernel

/-- The state whose host has issued the call `Encipher(2, (1, 2), (1, 2, 3, 4))`. -/
def callT (lines : List AsmLine) : State := { st0 with cmds := (lines.flatMap AsmLine.commands).map encode }

theorem witness_EncipherCallAnswersTheEncipheredBlock :
    assemble (callEncipher 2 1 2 1 2 3 4) = some (callT (callEncipher 2 1 2 1 2 3 4)).cmds := by decide +kernel
theorem witness_DecipherCallAnswersTheDecipheredBlock :
    assemble (callDecipher 2 1 2 1 2 3 4) = some (callT (callDecipher 2 1 2 1 2 3 4)).cmds := by decide +kernel

end Sys2Proof.Tests
end

section
/-!
SUPPORT. What the round sum is after any number of rounds, and so after `ENC` and after `DEC` (41_block_transform R66, R69 to R71, R75).
-/

namespace Sys2Proof.Machine

/-- What `ENC` leaves (R69). -/
theorem exec_enc (s : State) :
    exec .enc s = .next (s.withEngine (encipher s.cfg.delta s.key s.rounds s.v0 s.v1)).completed := rfl

/-- What `DEC` leaves (R70). -/
theorem exec_dec (s : State) :
    exec .dec s = .next (s.withEngine (decipher s.cfg.delta s.key s.rounds s.v0 s.v1)).completed := rfl

/-- One more multiple of `DELTA` in the 48-bit sum. -/
theorem ofNat_delta_mul_succ (delta : Val40) (n : Nat) :
    BitVec.ofNat 48 (delta.toNat * (n + 1)) = BitVec.ofNat 48 (delta.toNat * n) + delta.setWidth 48 := by
  rw [Nat.mul_succ, BitVec.ofNat_add, BitVec.ofNat_toNat]

/-- `n` advances add `n * DELTA` modulo `2^48`. -/
theorem iterate_advance (delta : Val40) (n : Nat) (s : Sum48) :
    (advance delta)^[n] s = s + BitVec.ofNat 48 (delta.toNat * n) := by
  induction n with
  | zero => simp
  | succ n ih => rw [Function.iterate_succ_apply', ih, ofNat_delta_mul_succ, advance, BitVec.add_assoc]

/-- `n` retreats subtract `n * DELTA` modulo `2^48`, since they undo `n` advances. -/
theorem iterate_retreat (delta : Val40) (n : Nat) (s : Sum48) :
    (retreat delta)^[n] s = s - BitVec.ofNat 48 (delta.toNat * n) := by
  have undo : (advance delta)^[n] ((retreat delta)^[n] s) = s :=
    Function.LeftInverse.iterate (advance_retreat delta) n s
  rw [iterate_advance] at undo
  exact BitVec.eq_sub_iff_add_eq.2 undo

/-- Over `n` forward rounds the sum moves by itself: neither the block nor the key has a part in it. -/
theorem iterate_encRound_sum (delta : Val40) (key : Vector Word64 4) (n : Nat) (e : Engine) :
    ((encRound delta key)^[n] e).sum = e.sum + BitVec.ofNat 48 (delta.toNat * n) := by
  have moves : Function.Semiconj Engine.sum (encRound delta key) (advance delta) := encRound_sum delta key
  rw [moves.iterate_right n e, iterate_advance]

/-- Over `n` inverse rounds the sum moves by itself. -/
theorem iterate_decRound_sum (delta : Val40) (key : Vector Word64 4) (n : Nat) (e : Engine) :
    ((decRound delta key)^[n] e).sum = e.sum - BitVec.ofNat 48 (delta.toNat * n) := by
  have moves : Function.Semiconj Engine.sum (decRound delta key) (retreat delta) := decRound_sum delta key
  rw [moves.iterate_right n e, iterate_retreat]

/-- The sum after an encipher is `mask_48(DELTA * ROUNDS)` (R75). -/
theorem encipher_sum_toNat (delta : Val40) (key : Vector Word64 4) (rounds : BitVec 32) (v0 v1 : Val40) :
    (encipher delta key rounds v0 v1).sum.toNat = delta.toNat * rounds.toNat % 2 ^ 48 := by
  rw [encipher, iterate_encRound_sum, BitVec.zero_add, BitVec.toNat_ofNat]

/-- The sum after a decipher is the masked start less `DELTA * ROUNDS`, modulo `2^48` (R75). -/
theorem decipher_sum_toNat (delta : Val40) (key : Vector Word64 4) (rounds : BitVec 32) (v0 v1 : Val40) :
    (decipher delta key rounds v0 v1).sum.toNat =
      (2 ^ 48 - delta.toNat * rounds.toNat % 2 ^ 48 + delta.toNat * rounds.toNat % 2 ^ 40) % 2 ^ 48 := by
  rw [decipher, iterate_decRound_sum, BitVec.toNat_sub, BitVec.toNat_ofNat, decStart_toNat]

end Sys2Proof.Machine
end

section
/-!
The statements of 00_scope: the table of `SUM` for the reference `DELTA` (R7, R75), and the state after power-on reset (R27, R102).
-/

namespace Sys2Proof.Proofs

open Sys2Proof.Machine

/-- Every row of the table of R75 is the arithmetic of R69 to R71 on `P = DELTA * r`, and its round count fits `ROUNDS`. -/
theorem sumTable_rows : ∀ row ∈ Reference.sumTable,
    row.1 % 2 ^ 32 = row.1 ∧
    0x9E38538A49 * row.1 % 2 ^ 48 = row.2.1 ∧
    0x9E38538A49 * row.1 % 2 ^ 40 = row.2.2.1 ∧
    (2 ^ 48 - 0x9E38538A49 * row.1 % 2 ^ 48 + 0x9E38538A49 * row.1 % 2 ^ 40) % 2 ^ 48 = row.2.2.2 := by decide

/-- Settles O31: the sums are closed forms in `P = DELTA * ROUNDS`, which the rows of the table meet. -/
theorem sumTableForTheReferenceDelta : Obligations.SumTableForTheReferenceDelta := by
  intro row hrow s hdelta hrounds
  obtain ⟨hfits, henc, hstart, hdec⟩ := sumTable_rows row hrow
  have hp : s.cfg.delta.toNat * s.rounds.toNat = 0x9E38538A49 * row.1 := by
    rw [hdelta, hrounds, BitVec.toNat_ofNat, BitVec.toNat_ofNat, hfits]
  refine ⟨_, _, exec_enc s, exec_dec s, ?_, ?_, ?_⟩
  · rw [State.completed_sum, State.withEngine_sum, encipher_sum_toNat, hp, henc]
  · rw [decStart_toNat, hp, hstart]
  · rw [State.completed_sum, State.withEngine_sum, decipher_sum_toNat, hp, hdec]

/-- Settles O47: the fields are those of the power-on state; the register map is read name by name below 14, and above that the
chain buffer, the glyph ROM and the unmapped numbers stand in both maps alike (R26, R27). -/
theorem powerOnLeavesTheResetValues : Obligations.PowerOnLeavesTheResetValues := by
  refine ⟨fun c => ⟨rfl, fun n => ?_⟩, rfl, rfl⟩
  obtain hnamed | habove : n < 14 ∨ 14 ≤ n := by omega
  · interval_cases n <;> rfl
  · simp (disch := omega) only [Reference.regRead, if_neg]
    rfl

end Sys2Proof.Proofs
end

section
/-!
SUPPORT. The decoder inverted, and the register map by numbers: what a word that decodes or is refused looks like, and which number
each cell of the register space has (30_encoding R48 to R53, 10_state R26).
-/

namespace Sys2Proof.Machine

/-! ### The decoder -/

/-- The number of two fields side by side. -/
theorem toNat_append_eq_add {m n : Nat} (a : BitVec m) (b : BitVec n) : (a ++ b).toNat = a.toNat * 2 ^ n + b.toNat := by
  rw [BitVec.toNat_append, ← Nat.shiftLeft_add_eq_or_of_lt b.isLt, Nat.shiftLeft_eq]

/-- A command word is its two fields (R48). -/
theorem opcField_append_regField (w : CmdWord) : opcField w ++ regField w = w := by
  apply BitVec.eq_of_toNat_eq
  rw [toNat_append_eq_add, opcField_toNat, regField_toNat]
  omega

/-- What an accepted word of format `N` looks like (R49, R53). -/
theorem formatN_eq_ok {w : CmdWord} {i j : Instr} (h : formatN w i = .ok j) : regField w = 0#8 ∧ j = i := by
  unfold formatN at h
  split at h
  · cases h; exact ⟨‹_›, rfl⟩
  · cases h

/-- The fields of a word that decodes are those of its instruction (R51). -/
theorem fields_of_decode {c : Command} {i : Instr} (h : decode c = .ok i) :
    opcField c.cmd = i.opc ∧ regField c.cmd = i.regBits := by
  unfold decode at h
  split at h <;> rename_i hopc
  case h_2 | h_3 => cases h; exact ⟨BitVec.eq_of_toNat_eq hopc, rfl⟩
  case h_11 => cases h
  all_goals
    obtain ⟨hreg, rfl⟩ := formatN_eq_ok h
    exact ⟨BitVec.eq_of_toNat_eq hopc, hreg⟩

/-- A word that decodes is the word of its instruction (R52). -/
theorem encode_cmd_of_decode {c : Command} {i : Instr} (h : decode c = .ok i) : (encode i).cmd = c.cmd := by
  obtain ⟨hopc, hreg⟩ := fields_of_decode h
  rw [← opcField_append_regField c.cmd, hopc, hreg]
  rfl

/-- A command with the fields of an instruction, and its write data if it is a `WR`, decodes to that instruction (R51, R52). -/
theorem decode_of_fields {w : CmdWord} {data : Word64} {i : Instr} (hopc : opcField w = i.opc) (hreg : regField w = i.regBits)
    (hdata : ∀ r d, i = .wr r d → d = data) : decode ⟨w, data⟩ = .ok i := by
  cases i with
  | wr r d => simp [decode, hopc, hreg, Instr.opc, Instr.regBits, hdata r d rfl]
  | rd r => simp [decode, hopc, hreg, Instr.opc, Instr.regBits]
  | _ => simp [decode, formatN, hopc, hreg, Instr.opc, Instr.regBits]

/-- A word that selects a row by `OPC` alone has the `OPC` of the row. -/
theorem opcField_of_selects {w p : CmdWord} (h : w &&& 0xFF00#16 = p) : opcField w = opcField p := by
  have hmask : (0xFF00#16).extractLsb' 8 8 = BitVec.allOnes 8 := by decide
  rw [← h, opcField, opcField, BitVec.extractLsb'_and, hmask, BitVec.and_allOnes]

/-- Every legal word decodes (R52). -/
theorem decode_of_legalWord {c : Command} (h : legalWord c.cmd = true) : ∃ i, decode c = .ok i := by
  obtain ⟨w, d⟩ := c
  simp only [legalWord, opcodeTable, OpcodeRow.selects, List.any_cons, List.any_nil, Bool.or_false, Bool.or_eq_true,
    beq_iff_eq, show (0xFFFF#16) = BitVec.allOnes 16 from rfl, BitVec.and_allOnes] at h
  obtain rfl | h | h | rfl | rfl | rfl | rfl | rfl | rfl | rfl := h
  · exact ⟨.nop, decode_of_fields (by decide) (by decide) nofun⟩
  · exact ⟨.wr (regField w) d, decode_of_fields (opcField_of_selects h) rfl fun _ _ e => (Instr.wr.inj e).2.symm⟩
  · exact ⟨.rd (regField w), decode_of_fields (opcField_of_selects h) rfl nofun⟩
  · exact ⟨.enc, decode_of_fields (by decide) (by decide) nofun⟩
  · exact ⟨.dec, decode_of_fields (by decide) (by decide) nofun⟩
  · exact ⟨.dch, decode_of_fields (by decide) (by decide) nofun⟩
  · exact ⟨.ren, decode_of_fields (by decide) (by decide) nofun⟩
  · exact ⟨.run, decode_of_fields (by decide) (by decide) nofun⟩
  · exact ⟨.clre, decode_of_fields (by decide) (by decide) nofun⟩
  · exact ⟨.rst, decode_of_fields (by decide) (by decide) nofun⟩

/-- A word that is refused is illegal (R53). -/
theorem legalWord_of_decode_error {c : Command} {e : DecodeError} (h : decode c = .error e) : legalWord c.cmd = false := by
  rw [Bool.eq_false_iff]
  intro hlegal
  obtain ⟨i, hi⟩ := decode_of_legalWord hlegal
  rw [hi] at h
  cases h

/-! ### The register map -/

/-- The number of a cell (R26). -/
def RegCell.number : RegCell → Nat
  | .key i => i.val
  | .v0 => 0x04
  | .v1 => 0x05
  | .sum => 0x06
  | .rounds => 0x07
  | .nblk => 0x08
  | .status => 0x09
  | .delta => 0x0A
  | .glen => 0x0B
  | .nmax => 0x0C
  | .sent => 0x0D
  | .chw k => 0x20 + k.val
  | .gt b => 0x40 + b.val

/-- Every cell has a number that the map lists. -/
theorem RegCell.mappedNumber_number (c : RegCell) : mappedNumber c.number := by
  cases c <;> simp only [mappedNumber, RegCell.number] <;> omega


/-- The cell that a number names has that number. -/
theorem toNat_of_regCell {r : RegNo} {c : RegCell} (h : regCell r = some c) : r.toNat = c.number :=
  (by decide +kernel : ∀ r : RegNo, ∀ c ∈ regCell r, r.toNat = c.number) r c h

/-- A number that names no cell is one the map does not list. -/
theorem not_mappedNumber_of_regCell {r : RegNo} (h : regCell r = none) : ¬ mappedNumber r.toNat :=
  (by decide +kernel : ∀ r : RegNo, regCell r = none → ¬ mappedNumber r.toNat) r h

/-- Two numbers that name one cell are the same number (R20). -/
theorem regCell_injective {r q : RegNo} {c : RegCell} (hr : regCell r = some c) (hq : regCell q = some c) : r = q :=
  BitVec.eq_of_toNat_eq ((toNat_of_regCell hr).trans (toNat_of_regCell hq).symm)

/-- `STATUS` as a number is its three fields in their places (R25). -/
theorem Status.word_toNat (st : Status) : st.word.toNat = Reference.statusWord st := by
  simp only [Status.word, Reference.statusWord, toNat_append_eq_add, BitVec.toNat_ofNat, BitVec.toNat_ofBool]
  omega

/-- A field of `STATUS` by its place in the number (R25). -/
theorem Status.extractLsb'_word (st : Status) (lo len : Nat) :
    st.word.extractLsb' lo len = BitVec.ofNat len (Reference.statusWord st / 2 ^ lo) := by
  rw [BitVec.extractLsb', st.word_toNat, Nat.shiftRight_eq_div_pow]

/-- What a cell holds is what `RegRead` gives of its number (R26, R37). -/
theorem regRead_number (s : State) (c : RegCell) : Reference.regRead s c.number = some (readCell s c).toNat := by
  cases c with
  | key i => simp [Reference.regRead, RegCell.number, readCell]
  | status => simp [Reference.regRead, RegCell.number, readCell, Status.word_toNat]
  | chw k =>
    simp only [Reference.regRead, RegCell.number, readCell]
    simp (disch := omega) [if_neg, if_pos]
  | gt b =>
    simp only [Reference.regRead, RegCell.number, readCell]
    simp (disch := omega) [if_neg, if_pos, Nat.mod_eq_of_lt]
  | glen | nmax | sent => rfl
  | _ =>
    simp [Reference.regRead, RegCell.number, readCell]
    omega

/-- `RegRead` gives nothing of a number the map does not list (R31, R37). -/
theorem regRead_of_not_mappedNumber (s : State) {n : Nat} (h : ¬ mappedNumber n) : Reference.regRead s n = none := by
  unfold Reference.regRead mappedNumber at *
  simp (disch := omega) only [if_neg]

/-- A write to a cell leaves what every other cell reads as (R20, R38). -/
theorem readCell_of_writeCell {s t : State} {v : Word64} {c c' : RegCell} (h : writeCell s v c = .ok t) (hne : c' ≠ c) :
    readCell t c' = readCell s c' := by
  cases c <;> simp only [writeCell] at h
  case key i =>
    cases h
    cases c' with
    | key j =>
      have hval : i.val ≠ j.val := fun e => hne (congrArg RegCell.key (Fin.ext e.symm))
      exact Vector.getElem_set_ne i.isLt j.isLt hval
    | _ => rfl
  case chw k =>
    cases h
    cases c' with
    | chw j =>
      have hval : k.val ≠ j.val := fun e => hne (congrArg RegCell.chw (Fin.ext e.symm))
      exact Vector.getElem_set_ne k.isLt j.isLt hval
    | _ => rfl
  case v0 | v1 =>
    cases h
    cases c' <;> simp_all [readCell]
  case rounds | nblk =>
    split at h <;> cases h
    cases c' <;> simp_all [readCell]
  all_goals cases h

end Sys2Proof.Machine
end

section
/-!
SUPPORT. What one command can do, once: which cause it faults with, what it makes of the state, and that it always answers
(60_exceptions R89 to R91, R111).
-/

namespace Sys2Proof.Machine

/-! ### The causes of a fault -/

/-- The number of an encoded command word (R48). -/
theorem encode_cmd_toNat (i : Instr) : (encode i).cmd.toNat = i.opc.toNat * 256 + i.regBits.toNat :=
  toNat_append_eq_add _ _

/-- The word of a `WR` as the reference writes it (R48). -/
theorem wordOf_one (r : RegNo) (v : Word64) : Reference.wordOf 1 r = (encode (.wr r v)).cmd := by
  apply BitVec.eq_of_toNat_eq
  rw [encode_cmd_toNat, Reference.wordOf, BitVec.toNat_ofNat]
  change _ = 1 * 256 + r.toNat
  omega

/-- The checks of a `WR`, in their order (R91). -/
theorem causeOf_wr (r : RegNo) (v : Word64) :
    causeOf (encode (.wr r v)) =
      if ¬ mappedNumber r.toNat then some 2#4
      else if readOnlyNumber r.toNat then some 3#4
      else if r.toNat = 0x07 ∧ 2 ^ 32 ≤ v.toNat ∨ r.toNat = 0x08 ∧ 7 < v.toNat then some 4#4
      else none := by
  obtain ⟨hlegal, -, -⟩ := Laws.EncodedWordIsLegal.wr r v
  have hword : (encode (.wr r v)).cmd.toNat = 1 * 256 + r.toNat := encode_cmd_toNat _
  have hopc : (encode (.wr r v)).cmd.toNat / 256 = 1 := by omega
  have hreg : (encode (.wr r v)).cmd.toNat % 256 = r.toNat := by omega
  simp only [causeOf, hlegal, hopc, hreg, not_true_eq_false, if_false, true_or, true_and]
  rfl

/-- The one check of a `RD` (R91). -/
theorem causeOf_rd_of_not_mappedNumber {r : RegNo} (h : ¬ mappedNumber r.toNat) : causeOf (encode (.rd r)) = some 2#4 := by
  obtain ⟨hlegal, -, -⟩ := Laws.EncodedWordIsLegal.rd r
  have hword : (encode (.rd r)).cmd.toNat = 2 * 256 + r.toNat := encode_cmd_toNat _
  have hopc : (encode (.rd r)).cmd.toNat / 256 = 2 := by omega
  have hreg : (encode (.rd r)).cmd.toNat % 256 = r.toNat := by omega
  simp only [causeOf, hlegal, hopc, hreg, h, not_true_eq_false, not_false_eq_true, if_false, if_true, or_true, and_self]

/-- A word that is refused takes `IllegalCommand` (R53, R89). -/
theorem causeOf_of_decode_error {c : Command} {e : DecodeError} (h : decode c = .error e) : causeOf c = some 1#4 := by
  simp [causeOf, legalWord_of_decode_error h]

/-- A write that is refused is refused by the cause of its command (R38, R91). -/
theorem causeOf_of_regWrite_error {s : State} {r : RegNo} {v : Word64} {k : Cause} (h : regWrite s r v = .error k) :
    causeOf (encode (.wr r v)) = some k.code := by
  rw [causeOf_wr]
  obtain ⟨c, hc, e⟩ | ⟨hc, e⟩ := regWrite_cases s r v <;> rw [e] at h
  · have hr := toNat_of_regCell hc
    have hmapped := c.mappedNumber_number
    rw [hr, if_neg (not_not_intro hmapped)]
    cases c <;> simp only [writeCell] at h
    case rounds =>
      split at h <;> cases h
      simp_all [RegCell.number, Cause.code]
    case nblk =>
      split at h <;> cases h
      simp_all [RegCell.number, Cause.code]
    case key | v0 | v1 | chw => cases h
    case gt b =>
      cases h
      have := b.isLt
      rw [if_pos (by simp only [RegCell.number]; omega)]
      rfl
    all_goals cases h; rfl
  · cases h
    exact if_pos (not_mappedNumber_of_regCell hc)

/-- A `WR` that no check refuses reaches its cell (R38, R91). -/
theorem regWrite_of_causeOf_none {r : RegNo} {v : Word64} (h : causeOf (encode (.wr r v)) = none) (s : State) :
    ∃ t, regWrite s r v = .ok t := by
  cases hw : regWrite s r v with
  | ok t => exact ⟨t, rfl⟩
  | error k =>
    rw [causeOf_of_regWrite_error hw] at h
    cases h

/-! ### One command -/

/-- Every command ends in a next state (R111). -/
theorem exec_next (i : Instr) (s : State) : ∃ t, exec i s = .next t := by
  cases i with
  | wr r v => obtain ⟨t, -, e⟩ | ⟨k, -, e⟩ := execWr_cases r v s <;> exact ⟨_, e⟩
  | rd r => obtain ⟨c, -, e⟩ | ⟨-, e⟩ := execRd_cases r s <;> exact ⟨_, e⟩
  | _ => exact ⟨_, rfl⟩

/-- What a command may make of a state: the fault of the check that refuses it, or else the operation of its row (R51, R91). -/
inductive Performed (s : State) : Instr → State → Prop where
  | fault {i : Instr} {k : Cause} (hk : causeOf (encode i) = some k.code) : Performed s i (s.cmdFault k (encode i).cmd)
  | nop : Performed s .nop s.completed
  | write {r : RegNo} {v : Word64} {c : RegCell} {u : State} (hc : regCell r = some c) (hu : writeCell s v c = .ok u) :
      Performed s (.wr r v) u.completed
  | read {r : RegNo} {c : RegCell} (hc : regCell r = some c) : Performed s (.rd r) (s.respond (readCell s c) false)
  | enc : Performed s .enc (s.withEngine (encipher s.cfg.delta s.key s.rounds s.v0 s.v1)).completed
  | dec : Performed s .dec (s.withEngine (decipher s.cfg.delta s.key s.rounds s.v0 s.v1)).completed
  | dch : Performed s .dch (decryptChain s).completed
  | ren : Performed s .ren (renderChain s).completed
  | run : Performed s .run (renderChain (decryptChain s)).completed
  | clre : Performed s .clre s.clearFault.completed
  | rst : Performed s .rst s.restore.completed

/-- A `WR` takes its fault or writes its cell (R60). -/
theorem performed_of_execWr {r : RegNo} {v : Word64} {s t : State} (h : execWr r v s = .next t) : Performed s (.wr r v) t := by
  obtain ⟨u, hw, e⟩ | ⟨k, hw, e⟩ := execWr_cases r v s <;> cases e.symm.trans h
  · obtain ⟨c, hc, e⟩ | ⟨-, e⟩ := regWrite_cases s r v
    · exact .write hc (e.symm.trans hw)
    · cases e.symm.trans hw
  · exact .fault (causeOf_of_regWrite_error hw)

/-- A `RD` takes its fault or answers (R61). -/
theorem performed_of_execRd {r : RegNo} {s t : State} (h : execRd r s = .next t) : Performed s (.rd r) t := by
  obtain ⟨c, hc, e⟩ | ⟨hc, e⟩ := execRd_cases r s <;> cases e.symm.trans h
  · exact .read hc
  · exact .fault (k := .badRegister) (causeOf_rd_of_not_mappedNumber (not_mappedNumber_of_regCell hc))

/-- A command does nothing but what `Performed` lists. -/
theorem performed_of_exec {i : Instr} {s t : State} (h : exec i s = .next t) : Performed s i t := by
  cases i with
  | wr r v => exact performed_of_execWr h
  | rd r => exact performed_of_execRd h
  | nop => cases h; exact .nop
  | enc => cases h; exact .enc
  | dec => cases h; exact .dec
  | dch => cases h; exact .dch
  | ren => cases h; exact .ren
  | run => cases h; exact .run
  | clre => cases h; exact .clre
  | rst => cases h; exact .rst

/-- What one command does to `STATUS` and the answers: a fault answers `(0, 1)` and records; any other command answers with
`RERR = 0` and leaves `STATUS`, unless it is one of the two that clear it (R87, R88, R90). -/
theorem exec_answer {i : Instr} {s t : State} (h : exec i s = .next t) :
    (∃ k, causeOf (encode i) = some k.code ∧ t = s.cmdFault k (encode i).cmd) ∨
    ∃ v, t.resps = s.resps ++ [{ rdata := v, rerr := false }] ∧
      (t.status = s.status ∨ (i = .clre ∨ i = .rst) ∧ t.status = Status.clear) := by
  cases performed_of_exec h with
  | fault hk => exact .inl ⟨_, hk, rfl⟩
  | write hc hu =>
    obtain ⟨-, hstatus, -, -, -, hresps⟩ := writeCell_frame hu
    exact .inr ⟨0#64, by simp [hresps], .inl hstatus⟩
  | dch => exact .inr ⟨0#64, by simp [decryptChain_frame], .inl (by simp [decryptChain_frame])⟩
  | run => exact .inr ⟨0#64, by simp [renderChain, decryptChain_frame], .inl (by simp [renderChain, decryptChain_frame])⟩
  | clre => exact .inr ⟨0#64, rfl, .inr ⟨.inl rfl, rfl⟩⟩
  | rst => exact .inr ⟨0#64, rfl, .inr ⟨.inr rfl, rfl⟩⟩
  | _ => exact .inr ⟨_, rfl, .inl rfl⟩

/-- A command leaves the configuration (R14). -/
theorem exec_cfg {i : Instr} {s t : State} (h : exec i s = .next t) : t.cfg = s.cfg := by
  cases performed_of_exec h with
  | write hc hu =>
    obtain ⟨-, -, -, hcfg, -, -⟩ := writeCell_frame hu
    exact hcfg
  | _ => simp [renderChain, decryptChain_frame]

/-- A command appends glyphs to `OUT`, and only `REN` and `RUN` append any (R23). -/
theorem exec_out {i : Instr} {s t : State} (h : exec i s = .next t) :
    ∃ gs, t.out = s.out ++ gs ∧ (gs ≠ [] → i = .ren ∨ i = .run) := by
  cases performed_of_exec h with
  | write hc hu =>
    obtain ⟨-, -, hout, -, -, -⟩ := writeCell_frame hu
    exact ⟨[], by simp [hout], by simp⟩
  | ren => exact ⟨chainGlyphs s, rfl, fun _ => .inl rfl⟩
  | run => exact ⟨chainGlyphs (decryptChain s), by simp [renderChain, decryptChain_frame], fun _ => .inr rfl⟩
  | _ => exact ⟨[], by simp [decryptChain_frame], by simp⟩

/-- Which words change which register, in the map's own column (R26). -/
def ChangesAsListed (w : Nat) (s t : State) : Prop :=
  (t.key ≠ s.key → 0x0100 ≤ w ∧ w ≤ 0x0103 ∨ w = 0x1F00) ∧
  (t.v0 ≠ s.v0 → w ∈ [0x0104, 0x1000, 0x1100, 0x1200, 0x1400, 0x1F00]) ∧
  (t.v1 ≠ s.v1 → w ∈ [0x0105, 0x1000, 0x1100, 0x1200, 0x1400, 0x1F00]) ∧
  (t.sum ≠ s.sum → w ∈ [0x1000, 0x1100, 0x1200, 0x1400, 0x1F00]) ∧
  (t.rounds ≠ s.rounds → w ∈ [0x0107, 0x1F00]) ∧
  (t.nblk ≠ s.nblk → w ∈ [0x0108, 0x1F00]) ∧
  (t.chw ≠ s.chw → 0x0120 ≤ w ∧ w ≤ 0x012D ∨ w ∈ [0x1200, 0x1400, 0x1F00])

/-- A write to a cell changes the register of the cell alone (R38). -/
theorem writeCell_changes {s t : State} {v : Word64} {c : RegCell} (h : writeCell s v c = .ok t) :
    ChangesAsListed (0x0100 + c.number) s t := by
  cases c <;> simp only [writeCell] at h
  case key i =>
    cases h
    have := i.isLt
    simp [ChangesAsListed, RegCell.number]
    omega
  case chw k =>
    cases h
    have := k.isLt
    simp [ChangesAsListed, RegCell.number]
    omega
  case rounds => split at h <;> cases h; simp [ChangesAsListed, RegCell.number]
  case nblk => split at h <;> cases h; simp [ChangesAsListed, RegCell.number]
  case v0 | v1 => cases h; simp [ChangesAsListed, RegCell.number]
  all_goals cases h

/-- A command changes only the registers that list it (R26). -/
theorem exec_changes {i : Instr} {s t : State} (h : exec i s = .next t) : ChangesAsListed (encode i).cmd.toNat s t := by
  cases performed_of_exec h with
  | @write r v c u hc hu =>
    have hword : (encode (.wr r v)).cmd.toNat = 1 * 256 + r.toNat := encode_cmd_toNat _
    rw [hword, toNat_of_regCell hc]
    exact (writeCell_changes hu : ChangesAsListed _ s u)
  | _ => simp [ChangesAsListed, renderChain, decryptChain_frame, encode_cmd_toNat, Instr.opc, Instr.regBits]

/-! ### One step -/

/-- A step of an issued command runs the instruction the word encodes, or takes the fault of an illegal word (R42, R52). -/
theorem step_issued (s : State) (c : Command) :
    ∃ t, step (Reference.issued s c) = .next t ∧
      ((∃ i, (encode i).cmd = c.cmd ∧ exec i s = .next t) ∨ t = s.illegal c) := by
  cases hd : decode c with
  | ok i =>
    obtain ⟨t, ht⟩ := exec_next i s
    exact ⟨t, by simp only [step, State.take, hd]; exact ht, .inl ⟨i, encode_cmd_of_decode hd, ht⟩⟩
  | error e => exact ⟨_, by simp only [step, State.take, hd], .inr rfl⟩

end Sys2Proof.Machine
end

section
/-!
SUPPORT. What no command reads: `STATUS` but by `RD` of it, the traces and the stream (10_state R14, R23, 60_exceptions R90), and the
`SUM` an earlier cipher command left (R75).
-/

namespace Sys2Proof.Machine

/-- The state with another `STATUS`, output trace, command stream and record of answers. -/
def State.withRecords (s : State) (st : Status) (o : List Glyph) (cs : List Command) (rs : List Response) : State :=
  { s with status := st, out := o, cmds := cs, resps := rs }

section
variable (s : State) (st : Status) (o : List Glyph) (cs : List Command) (rs : List Response)

@[simp] theorem respond_withRecords (v : Word64) (e : Bool) :
    (s.withRecords st o cs rs).respond v e = s.withRecords st o cs (rs ++ [⟨v, e⟩]) := rfl

@[simp] theorem completed_withRecords :
    (s.withRecords st o cs rs).completed = s.withRecords st o cs (rs ++ [⟨0#64, false⟩]) := rfl

@[simp] theorem cmdFault_withRecords (k : Cause) (w : CmdWord) :
    (s.withRecords st o cs rs).cmdFault k w = s.withRecords (st.record k w) o cs (rs ++ [⟨0#64, true⟩]) := rfl

@[simp] theorem withEngine_withRecords (e : Engine) :
    (s.withRecords st o cs rs).withEngine e = (s.withEngine e).withRecords st o cs rs := rfl

@[simp] theorem renderChain_withRecords :
    renderChain (s.withRecords st o cs rs) = s.withRecords st (o ++ chainGlyphs s) cs rs := rfl

@[simp] theorem clearFault_withRecords : (s.withRecords st o cs rs).clearFault = s.withRecords Status.clear o cs rs := rfl

@[simp] theorem restore_withRecords : (s.withRecords st o cs rs).restore = s.restore.withRecords Status.clear o cs rs := rfl

/-- A write to a cell neither reads nor changes the records. -/
theorem writeCell_withRecords (v : Word64) (c : RegCell) :
    writeCell (s.withRecords st o cs rs) v c = (writeCell s v c).map (·.withRecords st o cs rs) := by
  cases c with
  | rounds => simp only [writeCell, apply_ite (Except.map _)]; rfl
  | nblk => simp only [writeCell, apply_ite (Except.map _)]; rfl
  | _ => rfl

/-- A register write neither reads nor changes the records. -/
theorem regWrite_withRecords (r : RegNo) (v : Word64) :
    regWrite (s.withRecords st o cs rs) r v = (regWrite s r v).map (·.withRecords st o cs rs) := by
  unfold regWrite
  cases regCell r with
  | none => rfl
  | some c => exact writeCell_withRecords s st o cs rs v c

/-- A cell other than `STATUS` reads the same whatever the records hold. -/
theorem readCell_withRecords {c : RegCell} (h : c ≠ .status ∨ st = s.status) :
    readCell (s.withRecords st o cs rs) c = readCell s c := by
  cases c with
  | status =>
    obtain h | rfl := h
    · exact absurd rfl h
    · rfl
  | _ => rfl

/-- The operation of `DCH` neither reads nor changes the records. -/
@[simp] theorem decryptChain_withRecords :
    decryptChain (s.withRecords st o cs rs) = (decryptChain s).withRecords st o cs rs :=
  List.foldl_hom (State.withRecords · st o cs rs) fun _ _ => rfl

end

/-- What a command makes of the records is to append to them what it takes from the rest of the state: some glyphs and one answer.
Only `RD STATUS` reads one of them. -/
theorem exec_withRecords (i : Instr) (s : State) :
    ∃ (t : State) (f : Status → Status) (gs : List Glyph) (r : Response), ∀ st o cs rs, i ≠ .rd 0x09#8 ∨ st = s.status →
      exec i (s.withRecords st o cs rs) = .next (t.withRecords (f st) (o ++ gs) cs (rs ++ [r])) := by
  cases i with
  | wr r v =>
    cases hw : regWrite s r v with
    | ok u => exact ⟨u, id, [], ⟨0#64, false⟩, fun _ _ _ _ _ => by simp [exec, execWr, regWrite_withRecords, hw, Except.map]⟩
    | error k =>
      exact ⟨s, fun st => st.record k (encode (.wr r v)).cmd, [], ⟨0#64, true⟩, fun _ _ _ _ _ => by
        simp [exec, execWr, regWrite_withRecords, hw, Except.map]⟩
  | rd r =>
    cases hc : regCell r with
    | none =>
      exact ⟨s, fun st => st.record .badRegister (encode (.rd r)).cmd, [], ⟨0#64, true⟩, fun _ _ _ _ _ => by
        simp [exec, execRd, regRead, hc]⟩
    | some c =>
      refine ⟨s, id, [], ⟨readCell s c, false⟩, fun st o cs rs hst => ?_⟩
      have hcell : c ≠ .status ∨ st = s.status := hst.imp_left fun hr hstatus =>
        hr (congrArg Instr.rd (BitVec.eq_of_toNat_eq (toNat_of_regCell (hstatus ▸ hc))))
      simp [exec, execRd, regRead, hc, readCell_withRecords s st o cs rs hcell]
  | ren => exact ⟨s, id, chainGlyphs s, ⟨0#64, false⟩, fun _ _ _ _ _ => rfl⟩
  | run => exact ⟨decryptChain s, id, chainGlyphs (decryptChain s), ⟨0#64, false⟩, fun _ _ _ _ _ => by simp [exec, execRun]⟩
  | dch => exact ⟨decryptChain s, id, [], ⟨0#64, false⟩, fun _ _ _ _ _ => by simp [exec, execDch]⟩
  | nop => exact ⟨s, id, [], ⟨0#64, false⟩, fun _ _ _ _ _ => by rw [List.append_nil]; rfl⟩
  | enc =>
    exact ⟨s.withEngine (encipher s.cfg.delta s.key s.rounds s.v0 s.v1), id, [], ⟨0#64, false⟩, fun _ _ _ _ _ => by
      rw [List.append_nil]; rfl⟩
  | dec =>
    exact ⟨s.withEngine (decipher s.cfg.delta s.key s.rounds s.v0 s.v1), id, [], ⟨0#64, false⟩, fun _ _ _ _ _ => by
      rw [List.append_nil]; rfl⟩
  | clre => exact ⟨s, fun _ => Status.clear, [], ⟨0#64, false⟩, fun _ _ _ _ _ => by rw [List.append_nil]; rfl⟩
  | rst => exact ⟨s.restore, fun _ => Status.clear, [], ⟨0#64, false⟩, fun _ _ _ _ _ => by rw [List.append_nil]; rfl⟩

/-- Deciphering any block puts a `SUM` of its own in place of the old one (R76). -/
theorem decipherBlock_withSum (s : State) (x : Sum48) (i : Fin 7) : decipherBlock { s with sum := x } i = decipherBlock s i := rfl

/-- A chain of two blocks or more has a first block to decipher, which replaces the old `SUM` (R76). -/
theorem decryptChain_withSum {s : State} (h : 2 ≤ s.nblk.toNat) (x : Sum48) : decryptChain { s with sum := x } = decryptChain s := by
  have hne : (blocksBelow (s.nblk.toNat - 1)).reverse ≠ [] :=
    List.ne_nil_of_mem (List.mem_reverse.2 (mem_blocksBelow.2 (show (0 : Fin 7).val < _ by simp; omega)))
  obtain ⟨i, rest, hblocks⟩ := List.exists_cons_of_ne_nil hne
  simp only [decryptChain, hblocks, List.foldl_cons, decipherBlock_withSum]

end Sys2Proof.Machine
end

section
/-!
SUPPORT. The fault record: what keeps the invariant of Safety.lean, and that a run keeps what every step keeps (10_state R25,
60_exceptions R89, R90).
-/

namespace Sys2Proof.Machine

/-- A cleared `STATUS` is sound. -/
theorem Status.sound_clear : Status.clear.Sound := ⟨fun _ => ⟨rfl, rfl⟩, nofun⟩

/-- A recorded fault keeps `STATUS` sound when the word raises the cause: an older record stays, a new one is sound by itself. -/
theorem Status.Sound.record {st : Status} (h : st.Sound) {c : Command} {k : Cause} (hk : causeOf c = some k.code) :
    (st.record k c.cmd).Sound := by
  cases herr : st.err with
  | true => rwa [Status.record_of_err herr]
  | false =>
    rw [Status.record_of_not_err herr]
    exact ⟨nofun, fun _ => ⟨c.wdata, hk⟩⟩

/-- A command fault of the cause that its word raises keeps the invariant. -/
theorem State.Inv.cmdFault {s : State} (h : s.Inv) {c : Command} {k : Cause} (hk : causeOf c = some k.code) :
    (s.cmdFault k c.cmd).Inv := by
  obtain ⟨hsound, -, hrdata⟩ := h
  refine ⟨hsound.record hk, fun _ => ⟨_, List.mem_concat_self, rfl⟩, fun r hr hrerr => ?_⟩
  obtain hold | rfl := List.mem_append.1 hr |>.imp_right List.mem_singleton.1
  · exact hrdata r hold hrerr
  · rfl

/-- An answer with `RERR = 0` keeps the invariant if `STATUS` is left or cleared. -/
theorem State.Inv.answer {s t : State} (h : s.Inv) {v : Word64} (hresps : t.resps = s.resps ++ [{ rdata := v, rerr := false }])
    (hstatus : t.status = s.status ∨ t.status = Status.clear) : t.Inv := by
  obtain ⟨hsound, hrecorded, hrdata⟩ := h
  have hanswers : ∀ r ∈ t.resps, r.rerr = true → r ∈ s.resps := by
    intro r hr hrerr
    rw [hresps] at hr
    obtain hold | rfl := List.mem_append.1 hr |>.imp_right List.mem_singleton.1
    · exact hold
    · cases hrerr
  refine ⟨?_, ?_, fun r hr hrerr => hrdata r (hanswers r hr hrerr) hrerr⟩
  · obtain e | e := hstatus <;> rw [e]
    · exact hsound
    · exact Status.sound_clear
  · obtain e | e := hstatus <;> rw [e]
    · intro herr
      obtain ⟨r, hr, hrerr⟩ := hrecorded herr
      exact ⟨r, hresps ▸ List.mem_append_left _ hr, hrerr⟩
    · nofun

/-- Every command keeps the invariant. -/
theorem exec_keeps_inv {i : Instr} {s t : State} (hi : s.Inv) (h : exec i s = .next t) : t.Inv := by
  obtain ⟨k, hk, rfl⟩ | ⟨v, hresps, hstatus⟩ := exec_answer h
  · exact hi.cmdFault hk
  · exact hi.answer hresps (hstatus.imp_right And.right)

/-- The power-on state of any configuration meets the invariant. -/
theorem inv_powerOn (c : Config) : (State.powerOn c).Inv :=
  ⟨Status.sound_clear, nofun, nofun⟩

/-- What every step of a machine keeps, a run of any length keeps. -/
theorem run_keeps {M : Host.Core} {P : M.State → Prop} (hstep : ∀ s t, P s → M.step s = .next t → P t) :
    ∀ (n : Nat) (s t : M.State), P s → M.run n s = .next t → P t := by
  intro n
  induction n with
  | zero => intro s t hs h; cases h; exact hs
  | succ n ih =>
    intro s t hs h
    rw [Host.Core.run] at h
    cases hu : M.step s with
    | next u => rw [hu] at h; exact ih u t (hstep s u hs hu) h
    | fault r => rw [hu] at h; cases h
    | refused r => rw [hu] at h; cases h

/-! ### What one command may do to the record and to `OUT` -/

/-- A fault that changes `STATUS` found none recorded. -/
theorem Status.err_of_record_ne {st : Status} {k : Cause} {w : CmdWord} (h : st.record k w ≠ st) : st.err = false :=
  Bool.eq_false_iff.2 fun herr => h (st.record_of_err herr k w)

/-- What an issued command does to `STATUS` and the answers: a fault, or an answer with `RERR = 0` that leaves `STATUS` or, as `CLRE`
or `RST`, clears it. -/
theorem step_issued_answer (s : State) (c : Command) :
    ∃ t, step (Reference.issued s c) = .next t ∧
      ((∃ k, t = s.cmdFault k c.cmd) ∨
       ∃ v, t.resps = s.resps ++ [{ rdata := v, rerr := false }] ∧
        (t.status = s.status ∨ c.cmd = 0x1E00#16 ∨ c.cmd = 0x1F00#16)) := by
  obtain ⟨t, ht, ⟨i, hword, hexec⟩ | rfl⟩ := step_issued s c
  · obtain ⟨k, -, rfl⟩ | ⟨v, hresps, hstatus⟩ := exec_answer hexec
    · exact ⟨_, ht, .inl ⟨k, hword ▸ rfl⟩⟩
    · refine ⟨t, ht, .inr ⟨v, hresps, hstatus.imp_right fun h => ?_⟩⟩
      obtain ⟨rfl | rfl, -⟩ := h
      · exact .inl hword.symm
      · exact .inr hword.symm
  · exact ⟨_, ht, .inl ⟨.illegalCommand, rfl⟩⟩

/-- Sixteen glyphs from each of `NBLK` blocks and the newline bound one `REN` (R82). -/
theorem length_chainGlyphs_le (s : State) : (chainGlyphs s).length ≤ 16 * s.nblk.toNat + 1 := by
  have hblocks : ((blocksBelow s.nblk.toNat).flatMap (glyphsOfBlock s)).length ≤ (blocksBelow s.nblk.toNat).length * 16 := by
    rw [List.length_flatMap]
    refine (List.sum_le_card_nsmul _ 16 fun n hn => ?_).trans (by simp)
    obtain ⟨i, -, rfl⟩ := List.mem_map.1 hn
    exact length_glyphsOfBlock_le s i
  rw [length_blocksBelow] at hblocks
  simp only [chainGlyphs, List.length_append, List.length_singleton]
  omega

end Sys2Proof.Machine
end

section
/-!
The statements of 10_state: the fault record, what no command reads, register reads, and what each command may change.
-/

namespace Sys2Proof.Proofs

open Sys2Proof.Machine

/-- Settles O49: a step is idle, a command, which faults by its own cause or leaves or clears `STATUS`, or the fault of an illegal word. -/
theorem everyStepKeepsTheFaultRecordSound : Obligations.EveryStepKeepsTheFaultRecordSound := by
  intro s t hi h
  obtain ⟨-, rfl⟩ | ⟨c, rest, -, ⟨i, -, hexec⟩ | ⟨e, hd, rfl⟩⟩ := step_cases h
  · exact hi
  · exact exec_keeps_inv (s := { s with cmds := rest }) hi hexec
  · exact State.Inv.cmdFault (s := { s with cmds := rest }) hi (k := .illegalCommand) (causeOf_of_decode_error hd)

/-- Settles O50: nothing is recorded at power-on and nothing has been answered. -/
theorem resetMeetsTheFaultRecordInvariant : Obligations.ResetMeetsTheFaultRecordInvariant := inv_powerOn Config.hw

/-- Settles O51: the invariant holds after the run, and it asks an answer with `RERR = 1` of every recorded fault. -/
theorem cleanRunHasNoRecordedFault : Obligations.CleanRunHasNoRecordedFault := by
  intro n s t hi h hclean
  obtain ⟨-, hrecorded, -⟩ := run_keeps (M := core) everyStepKeepsTheFaultRecordSound n s t hi h
  rw [Bool.eq_false_iff]
  intro herr
  obtain ⟨r, hr, hrerr⟩ := hrecorded herr
  exact absurd hrerr (by simp [hclean r hr])

/-- Settles O12: two runs of one command from records that differ in `STATUS` alone differ in `STATUS` alone. -/
theorem recordedFaultBlocksNoCommand : Obligations.RecordedFaultBlocksNoCommand := by
  intro i s st hi
  obtain ⟨t, f, gs, r, h⟩ := exec_withRecords i s
  exact ⟨_, _, h s.status s.out s.cmds s.resps (.inl hi), h st s.out s.cmds s.resps (.inl hi), rfl⟩

/-- Settles O13: the records are appended to, and nothing is taken from them. -/
theorem tracesAreReadByNoCommand : Obligations.TracesAreReadByNoCommand := by
  intro i s
  obtain ⟨t, f, gs, r, h⟩ := exec_withRecords i s
  exact ⟨{ t with status := f s.status }, gs, r, fun o cs rs => h s.status o cs rs (.inr rfl)⟩

/-- Settles O15: the number names a cell, since `RegRead` gives a value of it, and the cell's value is that value. -/
theorem rdAnswersTheRegister : Obligations.RdAnswersTheRegister := by
  intro s r v hv
  obtain ⟨c, hc, hexec⟩ | ⟨hc, -⟩ := execRd_cases r s
  · rw [toNat_of_regCell hc, regRead_number] at hv
    obtain rfl := Option.some.inj hv
    exact ⟨(readCell s c).isLt, by rw [BitVec.ofNat_toNat, BitVec.setWidth_eq]; exact hexec⟩
  · rw [regRead_of_not_mappedNumber s (not_mappedNumber_of_regCell hc)] at hv
    cases hv

/-- Settles O48: the value answered is the number with the three fields in their places. -/
theorem statusWordHasTheFieldsInPlace : Obligations.StatusWordHasTheFieldsInPlace := by
  intro s
  have herr := s.status.err.toNat_le
  refine ⟨s.status.word, rfl, ?_, ?_, ?_, ?_, ?_, ?_⟩
  · rw [BitVec.getLsbD, s.status.word_toNat, Reference.statusWord, Nat.testBit_zero]
    cases s.status.err <;> simp <;> omega
  all_goals
    rw [Status.extractLsb'_word]
    apply BitVec.eq_of_toNat_eq
    simp only [BitVec.toNat_ofNat, Reference.statusWord]
    omega

/-- Settles O20: a write changes its own cell, and another number names another cell or none. -/
theorem wrLeavesEveryOtherRegister : Obligations.WrLeavesEveryOtherRegister := by
  intro s r q v hne hcause
  rw [wordOf_one r v] at hcause
  obtain ⟨t, hw⟩ := regWrite_of_causeOf_none hcause s
  refine ⟨t.completed, by simp only [exec, execWr, hw], ?_⟩
  obtain ⟨c, hc, e⟩ | ⟨-, e⟩ := regWrite_cases s r v <;> rw [e] at hw
  · cases hq : regCell q with
    | none =>
      have hunmapped := not_mappedNumber_of_regCell hq
      rw [regRead_of_not_mappedNumber _ hunmapped, regRead_of_not_mappedNumber _ hunmapped]
    | some c' =>
      have hcell : c' ≠ c := fun e => hne (regCell_injective hc (e ▸ hq))
      rw [toNat_of_regCell hq, regRead_number, regRead_number]
      exact congrArg (some ·.toNat) (readCell_of_writeCell hw hcell)
  · cases hw

/-- Settles O32: `ENC` and `DEC` start from a `SUM` of their own, and so does the first block of a chain. -/
theorem sumIsNoInputToACipherCommand : Obligations.SumIsNoInputToACipherCommand := by
  intro s x
  refine ⟨rfl, rfl, fun h => ⟨?_, ?_⟩⟩
  · exact congrArg (fun u : State => Host.Outcome.next u.completed) (decryptChain_withSum h x)
  · exact congrArg (fun u : State => Host.Outcome.next (renderChain u).completed) (decryptChain_withSum h x)

/-- Settles O40: the newline is always there, and the blocks bound the rest. -/
theorem renEmitsBoundedlyMany : Obligations.RenEmitsBoundedlyMany := by
  intro s
  refine ⟨_, chainGlyphs s, rfl, rfl, ?_, ?_⟩
  · simp [chainGlyphs]
  · exact length_chainGlyphs_le s

/-- Settles O52: neither an idle step, nor a command, nor the fault of an illegal word writes the configuration. -/
theorem noStepChangesTheConfiguration : Obligations.NoStepChangesTheConfiguration := by
  intro s t h
  obtain ⟨-, rfl⟩ | ⟨c, rest, -, ⟨i, -, hexec⟩ | ⟨e, -, rfl⟩⟩ := step_cases h
  · rfl
  · exact (exec_cfg hexec).trans rfl
  · rfl

/-- Settles O53: `REN` and `RUN` are the commands that emit, and their words are these two. -/
theorem outputOnlyGrowsAndOnlyByRenAndRun : Obligations.OutputOnlyGrowsAndOnlyByRenAndRun := by
  intro s c
  obtain ⟨t, ht, ⟨i, hword, hexec⟩ | rfl⟩ := step_issued s c
  · obtain ⟨gs, hout, hgs⟩ := exec_out hexec
    exact ⟨t, gs, ht, hout, fun hne => hword ▸ (hgs hne).imp (by rintro rfl; rfl) (by rintro rfl; rfl)⟩
  · exact ⟨_, [], ht, by simp, by simp⟩

/-- Settles O54: a command changes what lists it, and the fault of an illegal word changes no register. -/
theorem registersChangeOnlyByTheListedCommands : Obligations.RegistersChangeOnlyByTheListedCommands := by
  intro s c
  obtain ⟨t, ht, ⟨i, hword, hexec⟩ | rfl⟩ := step_issued s c
  · exact ⟨t, ht, hword ▸ exec_changes hexec⟩
  · exact ⟨_, ht, by simp⟩

/-- Settles O55: a fault that finds one recorded leaves `STATUS`, and every other command but `CLRE` and `RST` leaves it too. -/
theorem statusChangesOnlyByFaultClreAndRst : Obligations.StatusChangesOnlyByFaultClreAndRst := by
  intro s c
  obtain ⟨t, ht, ⟨k, rfl⟩ | ⟨v, hresps, hstatus⟩⟩ := step_issued_answer s c
  · refine ⟨_, _, ht, rfl, fun hne => .inl ⟨rfl, Status.err_of_record_ne hne⟩, fun _ hclear => ?_⟩
    exact absurd hclear (by simp)
  · refine ⟨t, _, ht, hresps, fun hne => .inr (hstatus.resolve_left hne), fun herr hclear => ?_⟩
    refine hstatus.resolve_left fun e => ?_
    rw [e, herr] at hclear
    cases hclear

end Sys2Proof.Proofs
end

section
/-!
SUPPORT. What a write leaves in its cell and which commands the register space refuses (20_memory R31, R37, R38, 60_exceptions R90,
R91), and how steps take the host's commands one by one (20_memory R42).
-/

namespace Sys2Proof.Machine

/-! ### Faults as the reference writes them -/

/-- The word of an instruction as the reference writes it (R48). -/
theorem wordOf_opc_regBits (i : Instr) : Reference.wordOf i.opc.toNat i.regBits = (encode i).cmd := by
  apply BitVec.eq_of_toNat_eq
  rw [encode_cmd_toNat, Reference.wordOf, BitVec.toNat_ofNat]
  omega

/-- The word of a `RD` as the reference writes it (R48). -/
theorem wordOf_two (r : RegNo) : Reference.wordOf 2 r = (encode (.rd r)).cmd := wordOf_opc_regBits (.rd r)

/-- A command fault as the reference writes it (R90). -/
theorem cmdFault_eq_faulted (s : State) (k : Cause) (w : CmdWord) : s.cmdFault k w = Reference.faulted s k.code w := rfl

/-- A number the map does not list names no cell (R31). -/
theorem regCell_of_not_mappedNumber {r : RegNo} (h : ¬ mappedNumber r.toNat) : regCell r = none := by
  rw [Option.eq_none_iff_forall_ne_some]
  intro c hc
  exact h (toNat_of_regCell hc ▸ c.mappedNumber_number)

/-! ### A write to a cell -/

/-- Setting an element with a bound at hand is setting it if it is in bounds. -/
theorem vector_set_eq_setIfInBounds {α : Type} {n i : Nat} (xs : Vector α n) (x : α) (h : i < n) :
    xs.set i x h = xs.setIfInBounds i x := by
  ext j hj
  rw [Vector.getElem_set, Vector.getElem_setIfInBounds]

/-- The low 40 bits of a word, by its number (R12). -/
theorem low40_eq_ofNat (v : Word64) : low40 v = BitVec.ofNat 40 (v.toNat % 2 ^ 40) := by
  apply BitVec.eq_of_toNat_eq
  simp [low40]

/-- What a write leaves is what the reference's `RegWrite` leaves (R38). -/
theorem eq_regWrite_of_writeCell {s t : State} {v : Word64} {c : RegCell} (h : writeCell s v c = .ok t) :
    t = Reference.regWrite s c.number v.toNat := by
  cases c <;> simp only [writeCell] at h
  case key i =>
    cases h
    simp [Reference.regWrite, RegCell.number, vector_set_eq_setIfInBounds]
  case chw k =>
    cases h
    simp only [Reference.regWrite, RegCell.number]
    simp (disch := omega) [if_neg, vector_set_eq_setIfInBounds]
  case v0 | v1 =>
    cases h
    simp only [Reference.regWrite, RegCell.number, low40_eq_ofNat]
    rfl
  case rounds | nblk =>
    split at h <;> cases h
    simp [Reference.regWrite, RegCell.number]
  all_goals cases h

/-- What a cell reads as after a write to it: the value, cut to 40 bits in `V0` and `V1` (R37, R38). -/
theorem readCell_of_writeCell_self {s t : State} {v : Word64} {c : RegCell} (h : writeCell s v c = .ok t) :
    readCell t c = if c.number = 4 ∨ c.number = 5 then BitVec.ofNat 64 (v.toNat % 2 ^ 40) else v := by
  cases c <;> simp only [writeCell] at h
  case key i =>
    cases h
    rw [if_neg (by simp only [RegCell.number]; omega)]
    exact Vector.getElem_set_self i.isLt
  case chw k =>
    cases h
    rw [if_neg (by simp only [RegCell.number]; omega)]
    exact Vector.getElem_set_self k.isLt
  case v0 | v1 =>
    cases h
    apply BitVec.eq_of_toNat_eq
    simp [readCell, RegCell.number, low40]
  case rounds | nblk =>
    split at h <;> cases h
    rw [if_neg (by decide)]
    apply BitVec.eq_of_toNat_eq
    simp only [readCell, BitVec.toNat_setWidth]
    omega
  all_goals cases h

/-- Answering changes no cell. -/
@[simp] theorem readCell_completed (s : State) (c : RegCell) : readCell s.completed c = readCell s c := by
  cases c <;> rfl

/-- A write that its cell takes fails no check (R38, R91). -/
theorem causeOf_of_writeCell {s t : State} {r : RegNo} {v : Word64} {c : RegCell} (hc : regCell r = some c)
    (h : writeCell s v c = .ok t) : causeOf (encode (.wr r v)) = none := by
  have hpassed : ¬ readOnlyNumber c.number ∧
      ¬ (c.number = 0x07 ∧ 2 ^ 32 ≤ v.toNat ∨ c.number = 0x08 ∧ 7 < v.toNat) := by
    cases c <;> simp only [writeCell] at h
    case rounds | nblk =>
      split at h <;> cases h
      simp only [RegCell.number]
      omega
    case key | v0 | v1 | chw =>
      simp only [RegCell.number]
      omega
    all_goals cases h
  obtain ⟨hwritable, hfits⟩ := hpassed
  rw [causeOf_wr, toNat_of_regCell hc, if_neg (not_not_intro c.mappedNumber_number), if_neg hwritable, if_neg hfits]

/-! ### `WR` -/

/-- A `WR` that a check refuses takes the fault of that check (R60, R91). -/
theorem exec_wr_of_causeOf_some {r : RegNo} {v : Word64} {k : BitVec 4} (h : causeOf (encode (.wr r v)) = some k) (s : State) :
    exec (.wr r v) s = .next (Reference.faulted s k (Reference.wordOf 1 r)) := by
  obtain ⟨t, ht⟩ := exec_next (.wr r v) s
  cases performed_of_exec ht with
  | fault hk =>
    obtain rfl := Option.some.inj (hk.symm.trans h)
    rw [ht, cmdFault_eq_faulted, wordOf_one r v]
  | write hc hu =>
    rw [causeOf_of_writeCell hc hu] at h
    cases h

/-- A `WR` that no check refuses writes the cell its number names, and answers (R60, R91). -/
theorem exec_wr_of_causeOf_none {r : RegNo} {v : Word64} (h : causeOf (encode (.wr r v)) = none) (s : State) :
    ∃ c u, regCell r = some c ∧ writeCell s v c = .ok u ∧ exec (.wr r v) s = .next u.completed := by
  obtain ⟨t, ht⟩ := exec_next (.wr r v) s
  cases performed_of_exec ht with
  | fault hk =>
    rw [hk] at h
    cases h
  | write hc hu => exact ⟨_, _, hc, hu, ht⟩

/-! ### The command stream -/

/-- A step with a command issued takes it from the stream and performs it (R42, R52). -/
theorem step_of_decode {s : State} {c : Command} {rest : List Command} {i : Instr} (hs : s.cmds = c :: rest)
    (hd : decode c = .ok i) : step s = exec i { s with cmds := rest } := by
  simp only [step, State.take, hs, hd]

/-- No command touches the commands not yet taken (R42). -/
theorem exec_cmds {i : Instr} {s t : State} (h : exec i s = .next t) : t.cmds = s.cmds := by
  cases performed_of_exec h with
  | write hc hu =>
    obtain ⟨-, -, -, -, hcmds, -⟩ := writeCell_frame hu
    exact hcmds
  | _ => simp [renderChain, decryptChain_frame]

/-- A step with a command issued takes it and adds one answer (R42, R47). -/
theorem step_issued_takes_and_answers (s : State) (c : Command) :
    ∃ t r, step (Reference.issued s c) = .next t ∧ t.cmds = s.cmds ∧ t.resps = s.resps ++ [r] := by
  obtain ⟨t, ht, ⟨i, -, hexec⟩ | rfl⟩ := step_issued s c
  · obtain ⟨k, -, rfl⟩ | ⟨v, hresps, -⟩ := exec_answer hexec
    · exact ⟨_, _, ht, rfl, rfl⟩
    · exact ⟨t, _, ht, exec_cmds hexec, hresps⟩
  · exact ⟨_, _, ht, rfl, rfl⟩

/-- A run whose first step reaches `u` goes on from `u`. -/
theorem run_succ_of_step {M : Host.Core} {s u : M.State} (h : M.step s = .next u) (n : Nat) : M.run (n + 1) s = M.run n u := by
  rw [Host.Core.run, h]

/-- As many steps as commands issued take them all, and add one answer each (R42, R112). -/
theorem run_answers_all (cs : List Command) (s : State) (hs : s.cmds = cs) :
    ∃ t new, Host.Core.run core cs.length s = .next t ∧ t.cmds = [] ∧ t.resps = s.resps ++ new ∧ new.length = cs.length := by
  induction cs generalizing s with
  | nil => exact ⟨s, [], rfl, hs, (List.append_nil _).symm, rfl⟩
  | cons c rest ih =>
    obtain ⟨u, r, hstep, hcmds, hresps⟩ := step_issued_takes_and_answers { s with cmds := rest } c
    obtain ⟨t, new, hrun, hempty, hnew, hlen⟩ := ih u hcmds
    have hissued : Reference.issued { s with cmds := rest } c = s := by rw [Reference.issued, ← hs]
    rw [hissued] at hstep
    refine ⟨t, r :: new, (run_succ_of_step (M := core) hstep rest.length).trans hrun, hempty, ?_, congrArg (· + 1) hlen⟩
    rw [hnew, hresps, List.append_assoc, List.singleton_append]

end Sys2Proof.Machine
end

section
/-!
The statements of 20_memory: register reads and writes, and the command stream.
-/

namespace Sys2Proof.Proofs

open Sys2Proof.Machine

/-- Settles O10: induction over the stream, one command taken and one answer added by each step. -/
theorem issuedCommandsAreAllAnswered : Obligations.IssuedCommandsAreAllAnswered := by
  intro s
  obtain ⟨t, new, hrun, hempty, hresps, hlen⟩ := run_answers_all s.cmds s rfl
  exact ⟨t, hrun, hempty, by rw [hresps, List.length_append, hlen], new, hresps⟩

/-- Settles O16: the number names no cell, and that is the one check of a `RD`. -/
theorem rdOfUnmappedNumberFaults : Obligations.RdOfUnmappedNumberFaults := by
  intro s r h
  have hnone := regCell_of_not_mappedNumber h
  obtain ⟨c, hc, -⟩ | ⟨-, hexec⟩ := execRd_cases r s
  · cases hnone.symm.trans hc
  · rw [cmdFault_eq_faulted, ← wordOf_two] at hexec
    exact hexec

/-- Settles O17: the write reaches its cell, where it leaves what `RegWrite` leaves. -/
theorem wrWritesTheNamedCellOnly : Obligations.WrWritesTheNamedCellOnly := by
  intro s r v hcause
  rw [wordOf_one r v] at hcause
  obtain ⟨c, u, hc, hu, hexec⟩ := exec_wr_of_causeOf_none hcause s
  rw [hexec, toNat_of_regCell hc, eq_regWrite_of_writeCell hu]
  rfl

/-- Settles O18: each clause is the first of the ordered checks that its number or value fails. -/
theorem refusedWrWritesOnlyStatus : Obligations.RefusedWrWritesOnlyStatus := by
  intro s r v
  refine ⟨fun hunmapped => ?_, fun hreadOnly => ?_, fun hvalue => ?_⟩ <;>
    refine exec_wr_of_causeOf_some ?_ s <;> rw [causeOf_wr]
  · rw [if_pos hunmapped]
  · rw [if_neg (by omega), if_pos hreadOnly]
  · rw [if_neg (by omega), if_neg (by omega), if_pos hvalue]

/-- Settles O19: the read finds the cell the write reached, and answering the write changes no cell. -/
theorem rdAfterWrAnswersWhatWasWritten : Obligations.RdAfterWrAnswersWhatWasWritten := by
  intro s r v hcause
  rw [wordOf_one r v] at hcause
  obtain ⟨c, u, hc, hu, hexec⟩ := exec_wr_of_causeOf_none hcause s
  refine ⟨u.completed, hexec, ?_⟩
  obtain ⟨c', hc', hrd⟩ | ⟨hnone, -⟩ := execRd_cases r u.completed
  · obtain rfl := Option.some.inj (hc.symm.trans hc')
    rw [readCell_completed, readCell_of_writeCell_self hu, ← toNat_of_regCell hc] at hrd
    exact hrd
  · cases hc.symm.trans hnone

/-- Settles O6: the command is there and decodes, so both choices of a step are made. -/
theorem stepRunsTheDecodedInstruction : Obligations.StepRunsTheDecodedInstruction :=
  fun _ _ _ _ => step_of_decode

end Sys2Proof.Proofs
end

section
/-!
SUPPORT. The decoder against the opcode table: the one row a word selects, the two kinds of illegal word, and what a step makes of a
word it refuses (30_encoding R51 to R53).
-/

namespace Sys2Proof.Machine

/-! ### The encoder and the decoder -/

/-- The word of every instruction is legal, and its fields are the instruction's (R48, R51). -/
theorem encodedWordIsLegal (i : Instr) : Laws.EncodedWordIsLegal.Statement i := by
  cases i with
  | nop => exact Laws.EncodedWordIsLegal.nop
  | wr r v => exact Laws.EncodedWordIsLegal.wr r v
  | rd r => exact Laws.EncodedWordIsLegal.rd r
  | enc => exact Laws.EncodedWordIsLegal.enc
  | dec => exact Laws.EncodedWordIsLegal.dec
  | dch => exact Laws.EncodedWordIsLegal.dch
  | ren => exact Laws.EncodedWordIsLegal.ren
  | run => exact Laws.EncodedWordIsLegal.run
  | clre => exact Laws.EncodedWordIsLegal.clre
  | rst => exact Laws.EncodedWordIsLegal.rst

/-- The decoder undoes the encoder (R51). -/
@[simp] theorem decode_encode (i : Instr) : decode (encode i) = .ok i := by
  obtain ⟨-, hopc, hreg⟩ := encodedWordIsLegal i
  exact decode_of_fields hopc hreg fun r d h => by subst h; rfl

/-- The data of a decoded `WR` are the command's (R49). -/
theorem wdata_of_decode {c : Command} {r : RegNo} {d : Word64} (h : decode c = .ok (.wr r d)) : d = c.wdata := by
  obtain ⟨hopc, hreg⟩ := fields_of_decode h
  have hdecode : decode c = .ok (.wr r c.wdata) :=
    decode_of_fields hopc hreg fun _ _ e => (Instr.wr.inj e).2.symm
  exact (Instr.wr.inj (Except.ok.inj (h.symm.trans hdecode))).2

/-- A word that decodes is legal (R52). -/
theorem legalWord_of_decode {c : Command} {i : Instr} (h : decode c = .ok i) : legalWord c.cmd = true := by
  obtain ⟨hlegal, -, -⟩ := encodedWordIsLegal i
  exact encode_cmd_of_decode h ▸ hlegal

/-- A word is refused exactly when it is illegal (R52, R53). -/
theorem decode_error_iff (c : Command) : (∃ e, decode c = .error e) ↔ legalWord c.cmd = false := by
  refine ⟨fun ⟨_, he⟩ => legalWord_of_decode_error he, fun hillegal => ?_⟩
  cases hd : decode c with
  | error e => exact ⟨e, rfl⟩
  | ok i => cases hillegal.symm.trans (legalWord_of_decode hd)

/-! ### The row a word selects -/

/-- A row that selects a word has its opcode, since every mask keeps the opcode field (R51). -/
theorem opcField_of_mem_opcodeTable {row : OpcodeRow} (hrow : row ∈ opcodeTable) {w : CmdWord} (h : row.selects w = true) :
    opcField row.pattern = opcField w := by
  have hmask : opcField row.mask = BitVec.allOnes 8 :=
    (by decide : ∀ row ∈ opcodeTable, opcField row.mask = BitVec.allOnes 8) row hrow
  have hpattern : w &&& row.mask = row.pattern := beq_iff_eq.1 h
  rw [← hpattern, opcField, BitVec.extractLsb'_and]
  exact (congrArg (opcField w &&& ·) hmask).trans BitVec.and_allOnes

/-- The rows have ten different opcodes, so no two of them select one word (R51). -/
theorem length_filter_selects_le_one (w : CmdWord) : (opcodeTable.filter (·.selects w)).length ≤ 1 := by
  have hnodup : (opcodeTable.map fun row => opcField row.pattern).Nodup := by decide
  calc (opcodeTable.filter (·.selects w)).length
      = opcodeTable.countP (·.selects w) := List.countP_eq_length_filter.symm
    _ ≤ opcodeTable.countP ((· == opcField w) ∘ fun row => opcField row.pattern) :=
        List.countP_mono_left fun row hrow h => beq_iff_eq.2 (opcField_of_mem_opcodeTable hrow h)
    _ = (opcodeTable.map fun row => opcField row.pattern).count (opcField w) := List.countP_map.symm
    _ ≤ 1 := List.nodup_iff_count_le_one.1 hnodup _

/-- The row with the opcode of an instruction has its mnemonic (R51). -/
theorem mnemonic_of_opc {row : OpcodeRow} (hrow : row ∈ opcodeTable) {i : Instr} (h : opcField row.pattern = i.opc) :
    row.mnemonic = Reference.mnemonicOf i := by
  revert row
  cases i <;> simp only [Instr.opc, Reference.mnemonicOf] <;> decide

/-- The row found for a word that decodes is the row of its instruction (R51, R52). -/
theorem find?_selects_of_decode {c : Command} {i : Instr} (h : decode c = .ok i) :
    (opcodeTable.find? (·.selects c.cmd)).map OpcodeRow.mnemonic = some (Reference.mnemonicOf i) := by
  obtain ⟨hopc, -⟩ := fields_of_decode h
  have hsome : (opcodeTable.find? (·.selects c.cmd)).isSome :=
    List.find?_isSome.2 (List.any_eq_true.1 (legalWord_of_decode h))
  obtain ⟨row, hfind⟩ := Option.isSome_iff_exists.1 hsome
  have hmem := List.mem_of_find?_eq_some hfind
  have hrow := opcField_of_mem_opcodeTable hmem (List.find?_some (p := (OpcodeRow.selects · c.cmd)) hfind)
  rw [hfind, Option.map_some, mnemonic_of_opc hmem (hrow.trans hopc)]

/-! ### The two kinds of illegal word -/

/-- A word of format `N` is refused for a `REG` that is not zero, and for nothing else (R49, R53). -/
theorem formatN_eq_error_iff {w : CmdWord} {i : Instr} {e : DecodeError} :
    formatN w i = .error e ↔ regField w ≠ 0#8 ∧ e = .regNotZero (opcField w) (regField w) := by
  unfold formatN
  split <;> simp_all [eq_comm]

/-- A word is refused for its opcode exactly when that is none of the ten (R53). -/
theorem decode_eq_undefinedOpcode_iff (c : Command) :
    decode c = .error (.undefinedOpcode (opcField c.cmd)) ↔
      (opcField c.cmd).toNat ∉ [0x00, 0x01, 0x02, 0x10, 0x11, 0x12, 0x13, 0x14, 0x1E, 0x1F] := by
  unfold decode
  split <;> simp_all [formatN_eq_error_iff]

/-- A word is refused for its `REG` exactly when its opcode is of format `N` and `REG` is not zero (R49, R53). -/
theorem decode_eq_regNotZero_iff (c : Command) :
    decode c = .error (.regNotZero (opcField c.cmd) (regField c.cmd)) ↔
      (opcField c.cmd).toNat ∈ [0x00, 0x10, 0x11, 0x12, 0x13, 0x14, 0x1E, 0x1F] ∧ regField c.cmd ≠ 0#8 := by
  unfold decode
  split <;> simp_all [formatN_eq_error_iff]

/-- The opcode field from the quotient (R48). -/
theorem ofNat_div_256 (w : CmdWord) : BitVec.ofNat 8 (w.toNat / 256) = opcField w := by
  rw [← opcField_toNat, BitVec.ofNat_toNat, BitVec.setWidth_eq]

/-- The register field from the remainder (R48). -/
theorem ofNat_mod_256 (w : CmdWord) : BitVec.ofNat 8 (w.toNat % 256) = regField w := by
  rw [← regField_toNat, BitVec.ofNat_toNat, BitVec.setWidth_eq]

/-! ### A step -/

/-- A step with a command issued whose word is refused takes it and the fault (R42, R52). -/
theorem step_of_decode_error {s : State} {c : Command} {rest : List Command} {e : DecodeError} (hs : s.cmds = c :: rest)
    (hd : decode c = .error e) : step s = .next ({ s with cmds := rest }.illegal c) := by
  simp only [step, State.take, hs, hd]

/-- A command adds one answer: `RDATA` is zero in a fault, and in the answer of every command but `RD` (R47). -/
theorem exec_answers_once {i : Instr} {s t : State} (h : exec i s = .next t) :
    ∃ r, t.resps = s.resps ++ [r] ∧ (r.rerr = true → r.rdata = 0#64) ∧ (r.rdata ≠ 0#64 → i.opc = 0x02#8) := by
  cases performed_of_exec h with
  | write hc hu =>
    obtain ⟨-, -, -, -, -, hresps⟩ := writeCell_frame hu
    exact ⟨⟨0#64, false⟩, by simp [hresps], nofun, fun hne => absurd rfl hne⟩
  | read hc => exact ⟨_, rfl, nofun, fun _ => rfl⟩
  | fault hk => exact ⟨_, rfl, fun _ => rfl, fun hne => absurd rfl hne⟩
  | dch => exact ⟨⟨0#64, false⟩, by simp [decryptChain_frame], nofun, fun hne => absurd rfl hne⟩
  | run => exact ⟨⟨0#64, false⟩, by simp [renderChain, decryptChain_frame], nofun, fun hne => absurd rfl hne⟩
  | _ => exact ⟨_, rfl, nofun, fun hne => absurd rfl hne⟩

end Sys2Proof.Machine
end

section
/-!
The statements of 30_encoding on the decoder and the step.
-/

namespace Sys2Proof.Proofs

open Sys2Proof.Machine

/-- Settles O1: the fields of the encoded word are the instruction's, and the fields decide what a command decodes to. -/
theorem decodeOfEncodeGivesTheInstruction : Obligations.DecodeOfEncodeGivesTheInstruction := decode_encode

/-- Settles O2: the fields of the word are the instruction's, and the command with its own data decodes to the `WR` of that data. -/
theorem decodedInstructionEncodesToItsWord : Obligations.DecodedInstructionEncodesToItsWord :=
  fun _ _ h => ⟨encode_cmd_of_decode h, fun _ _ e => wdata_of_decode (e ▸ h)⟩

/-- Settles O3: a row that selects a word has its opcode, and the ten opcodes differ. -/
theorem decodeFollowsTheOneRowSelected : Obligations.DecodeFollowsTheOneRowSelected :=
  fun c => ⟨length_filter_selects_le_one c.cmd, fun _ => find?_selects_of_decode, decode_error_iff c⟩

/-- Settles O4: the decoder's own two reasons, with the fields written as quotient and remainder. -/
theorem illegalWordIsOfOneOfTwoKinds : Obligations.IllegalWordIsOfOneOfTwoKinds := by
  intro c
  have hreg : regField c.cmd ≠ 0#8 ↔ c.cmd.toNat % 256 ≠ 0 := by
    rw [← regField_toNat, ne_eq, BitVec.toNat_eq, BitVec.toNat_ofNat]
  simp only [ofNat_div_256, ofNat_mod_256, decode_eq_undefinedOpcode_iff, decode_eq_regNotZero_iff, hreg, opcField_toNat,
    and_self]

/-- Settles O7: a word that selects no row is refused, and the step takes the fault of a refused word. -/
theorem stepOfIllegalWordTakesTheFault : Obligations.StepOfIllegalWordTakesTheFault := by
  intro s c hillegal
  obtain ⟨e, hd⟩ := (decode_error_iff c).2 hillegal
  exact step_of_decode_error rfl hd

/-- Settles O9: a step runs a command, which answers once, or takes the fault of an illegal word, which answers `(0, 1)`. -/
theorem stepAnswersEachCommandOnce : Obligations.StepAnswersEachCommandOnce := by
  intro s c
  obtain ⟨t, ht, ⟨i, hword, hexec⟩ | rfl⟩ := step_issued s c
  · obtain ⟨r, hresps, hfault, hdata⟩ := exec_answers_once hexec
    obtain ⟨-, hopc, -⟩ := encodedWordIsLegal i
    refine ⟨t, r, ht, exec_cmds hexec, hresps, hfault, fun hne => ?_⟩
    rw [← opcField_toNat, ← hword, hopc, hdata hne]
    rfl
  · exact ⟨_, _, ht, rfl, rfl, fun _ => rfl, fun hne => absurd rfl hne⟩

/-- Settles O5: each word is decoded as written out. -/
theorem specWordsDecodeAsListed : Obligations.SpecWordsDecodeAsListed := by
  unfold Obligations.SpecWordsDecodeAsListed
  decide

end Sys2Proof.Proofs
end

section
/-!
SUPPORT. The Block Transform Engine on natural numbers: the rounds of the model are the rounds of the reference (41_block_transform R62,
R65 to R71).
-/

namespace Sys2Proof.Machine

/-- The registers of the engine as the reference's numbers. -/
def Engine.triple (e : Engine) : Reference.Triple := (e.v0.toNat, e.v1.toNat, e.sum.toNat)

/-- The model's `F` is the arithmetic of R62. -/
theorem roundF_toNat (x : Val40) (s : Sum48) (k : Word64) : (roundF x s k).toNat = Reference.f x.toNat s.toNat k.toNat := by
  simp only [roundF, Reference.f, BitVec.toNat_xor, BitVec.toNat_add, BitVec.toNat_shiftLeft, BitVec.toNat_ushiftRight,
    BitVec.toNat_ofNat, Nat.shiftLeft_eq, Nat.shiftRight_eq_div_pow]

/-- A key word by its index. -/
theorem keyAt_val (key : Vector Word64 4) (i : Fin 4) : Reference.keyAt key i = key[i].toNat := by
  simp [Reference.keyAt]

/-- The low selector (R65). -/
theorem keySelLo_toNat (key : Vector Word64 4) (s : Sum48) : (keySelLo key s).toNat = Reference.keyAt key (s.toNat % 4) := by
  rw [keySelLo, ← keyAt_val]
  simp

/-- The high selector (R65). -/
theorem keySelHi_toNat (key : Vector Word64 4) (s : Sum48) :
    (keySelHi key s).toNat = Reference.keyAt key (s.toNat / 2 ^ 11 % 4) := by
  rw [keySelHi, ← keyAt_val]
  simp [Nat.shiftRight_eq_div_pow]

/-- The advance of the sum (R66). -/
theorem advance_toNat (delta : Val40) (s : Sum48) : (advance delta s).toNat = (s.toNat + delta.toNat) % 2 ^ 48 := by
  rw [advance, BitVec.toNat_add, BitVec.toNat_setWidth_of_le (by decide)]

/-- The retreat of the sum (R66). -/
theorem retreat_toNat (delta : Val40) (s : Sum48) : (retreat delta s).toNat = (s.toNat + (2 ^ 48 - delta.toNat)) % 2 ^ 48 := by
  rw [retreat, BitVec.toNat_sub, BitVec.toNat_setWidth_of_le (by decide), Nat.add_comm]

/-- A forward round on numbers (R67). -/
theorem encRound_triple (delta : Val40) (key : Vector Word64 4) (e : Engine) :
    (encRound delta key e).triple = Reference.encRound delta.toNat (Reference.keyAt key) e.triple := by
  simp only [Engine.triple, encRound, Reference.encRound, BitVec.toNat_add, roundF_toNat, keySelLo_toNat, keySelHi_toNat,
    advance_toNat]

/-- An inverse round on numbers (R68). -/
theorem decRound_triple (delta : Val40) (key : Vector Word64 4) (e : Engine) :
    (decRound delta key e).triple = Reference.decRound delta.toNat (Reference.keyAt key) e.triple := by
  simp only [Engine.triple, decRound, Reference.decRound, BitVec.toNat_sub, roundF_toNat, keySelLo_toNat, keySelHi_toNat,
    retreat_toNat, Nat.add_comm (2 ^ 40 - _)]

/-- The reference's loop is iteration. -/
theorem repeatTimes_eq_iterate (body : Reference.Triple → Reference.Triple) (n : Nat) (e : Reference.Triple) :
    Reference.repeatTimes body n e = body^[n] e := by
  induction n generalizing e with
  | zero => rfl
  | succ n ih => exact ih (body e)

/-- `Encipher` on numbers (R69). -/
theorem encipher_triple (delta : Val40) (key : Vector Word64 4) (rounds : BitVec 32) (v0 v1 : Val40) :
    (encipher delta key rounds v0 v1).triple =
      Reference.repeatTimes (Reference.encRound delta.toNat (Reference.keyAt key)) rounds.toNat (v0.toNat, v1.toNat, 0) := by
  have rounds_agree : Function.Semiconj Engine.triple (encRound delta key) _ := encRound_triple delta key
  rw [encipher, rounds_agree.iterate_right, repeatTimes_eq_iterate]
  rfl

/-- `Decipher` on numbers (R70). -/
theorem decipher_triple (delta : Val40) (key : Vector Word64 4) (rounds : BitVec 32) (v0 v1 : Val40) :
    (decipher delta key rounds v0 v1).triple =
      Reference.repeatTimes (Reference.decRound delta.toNat (Reference.keyAt key)) rounds.toNat
        (v0.toNat, v1.toNat, delta.toNat * rounds.toNat % 2 ^ 40) := by
  have rounds_agree : Function.Semiconj Engine.triple (decRound delta key) _ := decRound_triple delta key
  rw [decipher, rounds_agree.iterate_right, repeatTimes_eq_iterate, Engine.triple, decStart_toNat]

/-- `Encipher` of the registers of a state (R69). -/
def State.enciphered (s : State) : Engine := encipher s.cfg.delta s.key s.rounds s.v0 s.v1

/-- It is what the reference says `ENC` leaves (R69). -/
theorem State.enciphered_triple (s : State) : s.enciphered.triple = Reference.encTriple s := encipher_triple _ _ _ _ _

/-- `Decipher` of the registers of a state (R70). -/
def State.deciphered (s : State) : Engine := decipher s.cfg.delta s.key s.rounds s.v0 s.v1

/-- It is what the reference says `DEC` leaves of the block (R70). -/
theorem State.deciphered_triple (s : State) :
    s.deciphered.triple = Reference.decTripleOf s s.v0.toNat s.v1.toNat := decipher_triple _ _ _ _ _

end Sys2Proof.Machine
end

section
/-!
SUPPORT. Programs: a list of instructions performed one after another, the run of its command stream, and what the lines of a call
sequence do (30_encoding R57, R58).
-/

namespace Sys2Proof.Machine

/-- The instructions, performed in order from `s`, leave `t` and give the answers listed, whatever commands wait behind them and
whatever has been answered before (R42, R47). -/
inductive Performs : List Instr → State → List Response → State → Prop where
  | nil {s : State} : Performs [] s [] s
  | cons {i : Instr} {is : List Instr} {s u t : State} {r : Response} {rs : List Response}
      (hexec : ∀ cs as, exec i { s with cmds := cs, resps := as } = .next { u with cmds := cs, resps := as ++ [r] })
      (hrest : Performs is u rs t) : Performs (i :: is) s (r :: rs) t

/-- One program after another. -/
theorem Performs.append {is js : List Instr} {s u t : State} {rs rs' : List Response} (h : Performs is s rs u)
    (h' : Performs js u rs' t) : Performs (is ++ js) s (rs ++ rs') t := by
  induction h with
  | nil => exact h'
  | cons hexec _ ih => exact .cons hexec (ih h')

/-- A run of this machine goes on from where its first step leads. -/
theorem core_run_succ {s u : State} (h : step s = .next u) (n : Nat) :
    Host.Core.run core (n + 1) s = Host.Core.run core n u := run_succ_of_step (M := core) h n

/-- A host that has issued the encoding of a program sees it performed, one command a step (R42, R52). -/
theorem run_of_performs {is : List Instr} {s t : State} {rs : List Response} (h : Performs is s rs t) (as : List Response) :
    Host.Core.run core is.length { s with cmds := is.map encode, resps := as } =
      .next { t with cmds := [], resps := as ++ rs } := by
  induction h generalizing as with
  | nil => rw [List.append_nil]; rfl
  | @cons i is s u t r rs hexec _ ih =>
    have hstep : step { s with cmds := (i :: is).map encode, resps := as } =
        .next { u with cmds := is.map encode, resps := as ++ [r] } :=
      (step_of_decode rfl (decode_encode i)).trans (hexec _ _)
    rw [List.append_cons]
    exact (core_run_succ hstep is.length).trans (ih _)

/-- The command stream of a program that assembles (R57, R58). -/
theorem cmds_of_assemble {lines : List AsmLine} {cs : List Command} (h : assemble lines = some cs) :
    cs = (lines.flatMap AsmLine.commands).map encode := by
  unfold assemble at h
  split at h <;> cases h
  rfl

/-! ### The lines of a call -/

/-- The answer `(0, 0)` (R13, R47). -/
abbrev okAnswer : Response := { rdata := 0#64, rerr := false }

/-- Four numbers as a key. -/
def keyOf (k0 k1 k2 k3 : Nat) : Vector Word64 4 :=
  #v[BitVec.ofNat 64 k0, BitVec.ofNat 64 k1, BitVec.ofNat 64 k2, BitVec.ofNat 64 k3]

/-- The state with the arguments of a call in its registers (R58). -/
def State.loaded (s : State) (r a b k0 k1 k2 k3 : Nat) : State :=
  { s with key := keyOf k0 k1 k2 k3, rounds := BitVec.ofNat 32 r, v0 := BitVec.ofNat 40 a, v1 := BitVec.ofNat 40 b }

/-- A `WR` that its cell takes, before the rest of a program (R60). -/
theorem Performs.wr {r : RegNo} {v : Word64} {is : List Instr} {s u t : State} {rs : List Response}
    (hwrite : regWrite s r v = .ok u) (hrest : Performs is u rs t) : Performs (.wr r v :: is) s (okAnswer :: rs) t := by
  refine .cons (fun cs as => ?_) hrest
  obtain ⟨-, hstatus, hout, -⟩ := regWrite_frame hwrite
  have hrecords : regWrite (s.withRecords s.status s.out cs as) r v = .ok (u.withRecords s.status s.out cs as) := by
    rw [regWrite_withRecords, hwrite, Except.map]
  change execWr r v (s.withRecords s.status s.out cs as) = _
  simp only [execWr, hrecords]
  rw [← hstatus, ← hout]
  rfl

/-- A write of the four key registers leaves none of the old key (R15). -/
theorem set_keys_eq_keyOf (key : Vector Word64 4) (k0 k1 k2 k3 : Nat) :
    (((key.set 0 (BitVec.ofNat 64 k0)).set 1 (BitVec.ofNat 64 k1)).set 2 (BitVec.ofNat 64 k2)).set 3 (BitVec.ofNat 64 k3) =
      keyOf k0 k1 k2 k3 := by
  ext n hn
  interval_cases n <;> simp [keyOf]

/-- `ROUNDS` takes a number that fits (R38). -/
theorem regWrite_rounds (s : State) {r : Nat} (hr : r < 2 ^ 32) :
    regWrite s AsmReg.rounds.number (BitVec.ofNat 64 r) = .ok { s with rounds := BitVec.ofNat 32 r } := by
  have hfits : ¬ (BitVec.ofNat 64 r).toNat ≥ 2 ^ 32 := by
    rw [BitVec.toNat_ofNat]
    omega
  change writeCell s (BitVec.ofNat 64 r) .rounds = _
  rw [writeCell, if_neg hfits, BitVec.setWidth_ofNat_of_le (by decide)]

/-- The first three lines of a call load its arguments, which the block cuts to 40 bits (R38, R58). -/
theorem performs_load (s : State) {r : Nat} (hr : r < 2 ^ 32) (a b k0 k1 k2 k3 : Nat) :
    Performs ([AsmLine.ldkey k0 k1 k2 k3, .wr .rounds r, .ldblk a b].flatMap AsmLine.commands) s
      (List.replicate 7 okAnswer) (s.loaded r a b k0 k1 k2 k3) := by
  have hlow (v : Nat) : BitVec.ofNat 40 v = low40 (BitVec.ofNat 64 v) := (BitVec.setWidth_ofNat_of_le (by decide) v).symm
  rw [State.loaded, ← set_keys_eq_keyOf s.key, hlow a, hlow b]
  exact .wr rfl <| .wr rfl <| .wr rfl <| .wr rfl <| .wr (regWrite_rounds _ hr) <| .wr rfl <| .wr rfl .nil

/-- `RDBLK` answers the two words of the block (R37, R58). -/
theorem performs_rdblk (s : State) :
    Performs AsmLine.rdblk.commands s
      [{ rdata := BitVec.ofNat 64 s.v0.toNat, rerr := false }, { rdata := BitVec.ofNat 64 s.v1.toNat, rerr := false }] s := by
  rw [BitVec.ofNat_toNat, BitVec.ofNat_toNat]
  exact .cons (fun _ _ => rfl) (.cons (fun _ _ => rfl) .nil)

/-- A call (R58) of a command `i` that answers `(0, 0)` and puts `engine` of the state in the working registers: its answers end with
the block that `i` makes of the arguments. -/
theorem engineCall_answers {line : AsmLine} {i : Instr} {engine : State → Engine} (hline : line.commands = [i])
    (hi : ∀ (u : State) (cs : List Command) (as : List Response), exec i { u with cmds := cs, resps := as } =
      .next { u.withEngine (engine u) with cmds := cs, resps := as ++ [okAnswer] })
    {s : State} {r a b k0 k1 k2 k3 : Nat} (hr : r < 2 ^ 32)
    (hcmds : assemble [.ldkey k0 k1 k2 k3, .wr .rounds r, .ldblk a b, line, .rdblk] = some s.cmds) :
    ∃ t, Host.Core.run core 10 s = .next t ∧ t.cmds = [] ∧
      t.resps = s.resps ++ List.replicate 8 okAnswer ++
        [{ rdata := BitVec.ofNat 64 (engine (s.loaded r a b k0 k1 k2 k3)).triple.1, rerr := false },
          { rdata := BitVec.ofNat 64 (engine (s.loaded r a b k0 k1 k2 k3)).triple.2.1, rerr := false }] := by
  have hperforms := (performs_load s hr a b k0 k1 k2 k3).append (.cons (hi _) (performs_rdblk _))
  have hissued : s.cmds = ([AsmLine.ldkey k0 k1 k2 k3, .wr .rounds r, .ldblk a b].flatMap AsmLine.commands ++
      i :: AsmLine.rdblk.commands).map encode := by
    rw [cmds_of_assemble hcmds]
    simp [hline]
  have hrun := run_of_performs hperforms s.resps
  rw [← hissued] at hrun
  exact ⟨_, hrun, rfl, (List.append_assoc s.resps (List.replicate 8 okAnswer) _).symm⟩

/-! ### The arguments as numbers -/

/-- The key words of four numbers below `2^64`. -/
theorem keyAt_keyOf {k0 k1 k2 k3 : Nat} (h0 : k0 < 2 ^ 64) (h1 : k1 < 2 ^ 64) (h2 : k2 < 2 ^ 64) (h3 : k3 < 2 ^ 64) :
    Reference.keyAt (keyOf k0 k1 k2 k3) = fun n => [k0, k1, k2, k3].getD n 0 := by
  funext n
  rw [Reference.keyAt, ← List.getElem?_map, List.getD_eq_getElem?_getD]
  simp only [keyOf, Vector.toList_mk, List.map_cons, List.map_nil, BitVec.toNat_ofNat, Nat.mod_eq_of_lt h0, Nat.mod_eq_of_lt h1,
    Nat.mod_eq_of_lt h2, Nat.mod_eq_of_lt h3]

end Sys2Proof.Machine
end

section
/-!
The statements of 30_encoding on the call sequences.
-/

namespace Sys2Proof.Proofs

open Sys2Proof.Machine

/-- Settles O56: the call runs the model's `Encipher` on its arguments, and that is the reference's on numbers. -/
theorem encipherCallAnswersTheEncipheredBlock : Obligations.EncipherCallAnswersTheEncipheredBlock := by
  intro s r a b k0 k1 k2 k3 hr _ _ h0 h1 h2 h3 hcmds key e
  have he : (s.loaded r a b k0 k1 k2 k3).enciphered.triple = e := by
    rw [State.enciphered_triple]
    simp only [Reference.encTriple, State.loaded, keyAt_keyOf h0 h1 h2 h3, BitVec.toNat_ofNat, Nat.mod_eq_of_lt hr]
    rfl
  exact he ▸ engineCall_answers rfl (fun _ _ _ => rfl) hr hcmds

/-- Settles O57: the call runs the model's `Decipher` on its arguments, and that is the reference's on numbers. -/
theorem decipherCallAnswersTheDecipheredBlock : Obligations.DecipherCallAnswersTheDecipheredBlock := by
  intro s r a b k0 k1 k2 k3 hr _ _ h0 h1 h2 h3 hcmds key e
  have he : (s.loaded r a b k0 k1 k2 k3).deciphered.triple = e := by
    rw [State.deciphered_triple]
    simp only [Reference.decTripleOf, State.loaded, keyAt_keyOf h0 h1 h2 h3, BitVec.toNat_ofNat, Nat.mod_eq_of_lt hr]
    rfl
  exact he ▸ engineCall_answers rfl (fun _ _ _ => rfl) hr hcmds

end Sys2Proof.Proofs
end

section
/-!
The statement of 40_register_access on `NOP`.
-/

namespace Sys2Proof.Machine

/-- What `NOP` leaves (R59). -/
theorem exec_nop (s : State) : exec .nop s = .next s.completed := rfl

/-- Completing a command adds the answer `(0, 0)` and nothing else (R13, R47). -/
theorem completed_eq_answered (s : State) : s.completed = Reference.answered s 0#64 false := rfl

end Sys2Proof.Machine

namespace Sys2Proof.Proofs

open Sys2Proof.Machine

/-- Settles O14: `NOP` completes, and completing adds that one answer. -/
theorem nopOnlyAnswers : Obligations.NopOnlyAnswers := by
  intro s
  rw [exec_nop, completed_eq_answered]

end Sys2Proof.Proofs
end

section
/-!
SUPPORT. The rounds: the wide machine of R63 in its low 40 bits, which bits of the sum and the key a round depends on, and that each
round undoes the other (41_block_transform R62, R63, R65 to R72).
-/

namespace Sys2Proof.Machine

/-! ### The 64-bit machine (R63) -/

/-- `F64` on numbers (R63). -/
theorem roundF64_toNat (x : Word64) (s : Sum48) (k : Word64) :
    (roundF64 x s k).toNat = Reference.f64 x.toNat s.toNat k.toNat := by
  have hxor : (x.toNat * 2 ^ 4 % 2 ^ 64) ^^^ (x.toNat % 2 ^ 40 / 2 ^ 5) < 2 ^ 64 :=
    Nat.xor_lt_two_pow (by omega) (by omega)
  have hx : x.toNat % 2 ^ 40 % 2 ^ 64 = x.toNat % 2 ^ 40 := by omega
  have hs : s.toNat % 2 ^ 64 = s.toNat := by omega
  simp only [roundF64, Reference.f64, BitVec.toNat_xor, BitVec.toNat_add, BitVec.toNat_shiftLeft, BitVec.toNat_ushiftRight,
    BitVec.toNat_setWidth, Nat.shiftLeft_eq, Nat.shiftRight_eq_div_pow, hx, hs, Nat.mod_eq_of_lt hxor]

/-- `F64` is a 64-bit number. -/
theorem f64_lt (x s k : Nat) : Reference.f64 x s k < 2 ^ 64 :=
  Nat.xor_lt_two_pow (Nat.mod_lt _ (by decide)) (Nat.mod_lt _ (by decide))

/-- The low 40 bits of `F64` are `F` of the low 40 bits of `x` (R63). -/
theorem f64_mod (x s k : Nat) : Reference.f64 x s k % 2 ^ 40 = Reference.f (x % 2 ^ 40) s k := by
  have hshl : x * 2 ^ 4 % 2 ^ 64 % 2 ^ 40 = x % 2 ^ 40 * 2 ^ 4 % 2 ^ 40 := by omega
  have hshr : x % 2 ^ 40 / 2 ^ 5 % 2 ^ 40 = x % 2 ^ 40 / 2 ^ 5 := by omega
  have hadd (a : Nat) : (a % 2 ^ 64 + x) % 2 ^ 64 % 2 ^ 40 = (a % 2 ^ 40 + x % 2 ^ 40) % 2 ^ 40 := by omega
  have hmask : (s + k) % 2 ^ 64 % 2 ^ 40 = (s + k) % 2 ^ 40 := by omega
  rw [Reference.f64, Nat.xor_mod_two_pow, hadd, hmask, Nat.xor_mod_two_pow, hshl, hshr]
  rfl

/-- The block cut to 40 bits, and the sum as it is. -/
def lowBlock : Reference.Triple → Reference.Triple
  | (v0, v1, sum) => (v0 % 2 ^ 40, v1 % 2 ^ 40, sum)

/-- Cutting the block after a wide forward round or before a forward round is the same (R63). -/
theorem lowBlock_encRound64 (delta : Nat) (key : Nat → Nat) (e : Reference.Triple) :
    lowBlock (Reference.encRound64 delta key e) = Reference.encRound delta key (lowBlock e) := by
  have hadd (v y : Nat) : (v + y) % 2 ^ 64 % 2 ^ 40 = (v % 2 ^ 40 + y % 2 ^ 40) % 2 ^ 40 := by omega
  simp only [lowBlock, Reference.encRound64, Reference.encRound, hadd, f64_mod]

/-- Cutting the block after a wide inverse round or before an inverse round is the same (R63). -/
theorem lowBlock_decRound64 (delta : Nat) (key : Nat → Nat) (e : Reference.Triple) :
    lowBlock (Reference.decRound64 delta key e) = Reference.decRound delta key (lowBlock e) := by
  have hsub (v x s k : Nat) : (v + (2 ^ 64 - Reference.f64 x s k)) % 2 ^ 64 % 2 ^ 40 =
      (v % 2 ^ 40 + (2 ^ 40 - Reference.f (x % 2 ^ 40) s k)) % 2 ^ 40 := by
    have hlt := f64_lt x s k
    rw [← f64_mod]
    omega
  simp only [lowBlock, Reference.decRound64, Reference.decRound, hsub]

/-- Rounds that agree in the low 40 bits of the block agree so after any number of them. -/
theorem lowBlock_repeatTimes {wide narrow : Reference.Triple → Reference.Triple}
    (h : ∀ e, lowBlock (wide e) = narrow (lowBlock e)) (n : Nat) (e : Reference.Triple) :
    lowBlock (Reference.repeatTimes wide n e) = Reference.repeatTimes narrow n (lowBlock e) := by
  have hrounds : Function.Semiconj lowBlock wide narrow := h
  rw [repeatTimes_eq_iterate, repeatTimes_eq_iterate, hrounds.iterate_right]

/-! ### What a round depends on (R62, R65, R71, R74) -/

/-- Two keys with the same bits 39:0 in every word. -/
def KeysAgree (key key' : Vector Word64 4) : Prop := ∀ i : Fin 4, low40 key[i] = low40 key'[i]

/-- The same block, and the same bits 39:0 of the sum. -/
structure Engine.Agree (e e' : Engine) : Prop where
  v0 : e.v0 = e'.v0
  v1 : e.v1 = e'.v1
  sum : e.sum.setWidth 40 = e'.sum.setWidth 40

/-- A key agrees with itself. -/
theorem KeysAgree.refl (key : Vector Word64 4) : KeysAgree key key := fun _ => rfl

section
variable {delta : Val40} {key key' : Vector Word64 4} {s s' : Sum48} {e e' : Engine}

/-- The advance of the sum in bits 39:0. -/
theorem advance_setWidth (delta : Val40) (s : Sum48) : (advance delta s).setWidth 40 = s.setWidth 40 + delta := by
  rw [advance, BitVec.setWidth_add _ _ (by decide), BitVec.setWidth_setWidth_of_le _ (by decide), BitVec.setWidth_eq]

/-- The retreat of the sum in bits 39:0. -/
theorem retreat_setWidth (delta : Val40) (s : Sum48) : (retreat delta s).setWidth 40 = s.setWidth 40 - delta := by
  rw [BitVec.eq_sub_iff_add_eq, ← advance_setWidth, advance_retreat]

/-- `F` under the low selector depends only on bits 39:0 of the sum and the key (R62, R65). -/
theorem roundF_keySelLo_congr (hkey : KeysAgree key key') (hs : s.setWidth 40 = s'.setWidth 40) (x : Val40) :
    roundF x s (keySelLo key s) = roundF x s' (keySelLo key' s') := by
  rw [keySelLo_congr hs]
  exact roundF_congr hs (hkey _)

/-- `F` under the high selector depends only on bits 39:0 of the sum and the key (R62, R65). -/
theorem roundF_keySelHi_congr (hkey : KeysAgree key key') (hs : s.setWidth 40 = s'.setWidth 40) (x : Val40) :
    roundF x s (keySelHi key s) = roundF x s' (keySelHi key' s') := by
  rw [keySelHi_congr hs]
  exact roundF_congr hs (hkey _)

/-- A forward round keeps the agreement (R67). -/
theorem encRound_agree (hkey : KeysAgree key key') (h : e.Agree e') : (encRound delta key e).Agree (encRound delta key' e') := by
  have hsum : (advance delta e.sum).setWidth 40 = (advance delta e'.sum).setWidth 40 := by
    rw [advance_setWidth, advance_setWidth, h.sum]
  refine ⟨?_, ?_, hsum⟩ <;>
    simp only [encRound, h.v0, h.v1, roundF_keySelLo_congr hkey h.sum, roundF_keySelHi_congr hkey hsum]

/-- An inverse round keeps the agreement (R68). -/
theorem decRound_agree (hkey : KeysAgree key key') (h : e.Agree e') : (decRound delta key e).Agree (decRound delta key' e') := by
  have hsum : (retreat delta e.sum).setWidth 40 = (retreat delta e'.sum).setWidth 40 := by
    rw [retreat_setWidth, retreat_setWidth, h.sum]
  refine ⟨?_, ?_, hsum⟩ <;>
    simp only [decRound, h.v0, h.v1, roundF_keySelHi_congr hkey h.sum, roundF_keySelLo_congr hkey hsum]

/-- Rounds that keep the agreement keep it over any number of them. -/
theorem Engine.Agree.iterate {f g : Engine → Engine} (hround : ∀ {e e'}, Engine.Agree e e' → (f e).Agree (g e')) (h : e.Agree e')
    (n : Nat) : (f^[n] e).Agree (g^[n] e') := by
  induction n with
  | zero => exact h
  | succ n ih =>
    rw [Function.iterate_succ_apply', Function.iterate_succ_apply']
    exact hround ih

end

/-! ### Each round undoes the other (R67, R68) -/

/-- An inverse round from the sum that a forward round leaves undoes it. -/
theorem decRound_encRound (delta : Val40) (key : Vector Word64 4) :
    Function.LeftInverse (decRound delta key) (encRound delta key) := by
  intro e
  simp only [decRound, encRound, retreat_advance, BitVec.add_sub_cancel]

/-- A forward round from the sum that an inverse round leaves undoes it. -/
theorem encRound_decRound (delta : Val40) (key : Vector Word64 4) :
    Function.LeftInverse (encRound delta key) (decRound delta key) := by
  intro e
  simp only [decRound, encRound, advance_retreat, BitVec.sub_add_cancel]

/-- In bits 39:0 the sum after `ROUNDS` advances from zero is the one a decipher starts from (R71). -/
theorem decStart_setWidth (delta : Val40) (rounds : BitVec 32) :
    (decStart delta rounds).setWidth 40 = (BitVec.ofNat 48 (delta.toNat * rounds.toNat)).setWidth 40 := by
  rw [decStart, BitVec.setWidth_setWidth_of_le _ (by decide), BitVec.setWidth_eq, BitVec.setWidth_ofNat_of_le (by decide)]

/-- A decipher undoes an encipher: the sums differ above bit 39 alone, and from the same sum each round is undone (R72). -/
theorem decipher_encipher (delta : Val40) (key : Vector Word64 4) (rounds : BitVec 32) (v0 v1 : Val40) :
    (decipher delta key rounds (encipher delta key rounds v0 v1).v0 (encipher delta key rounds v0 v1).v1).Agree
      ⟨v0, v1, 0#48⟩ := by
  have hstart : Engine.Agree ⟨(encipher delta key rounds v0 v1).v0, (encipher delta key rounds v0 v1).v1, decStart delta rounds⟩
      (encipher delta key rounds v0 v1) :=
    ⟨rfl, rfl, by rw [encipher, iterate_encRound_sum, BitVec.zero_add, decStart_setWidth]⟩
  have hundo : (decRound delta key)^[rounds.toNat] (encipher delta key rounds v0 v1) = ⟨v0, v1, 0#48⟩ :=
    (decRound_encRound delta key).iterate _ _
  exact hundo ▸ hstart.iterate (decRound_agree (.refl key)) rounds.toNat

/-- An encipher undoes a decipher: the decipher leaves bits 39:0 of the sum zero (R72, R75). -/
theorem encipher_decipher (delta : Val40) (key : Vector Word64 4) (rounds : BitVec 32) (v0 v1 : Val40) :
    (encipher delta key rounds (decipher delta key rounds v0 v1).v0 (decipher delta key rounds v0 v1).v1).Agree
      ⟨v0, v1, decStart delta rounds⟩ := by
  have hstart : Engine.Agree ⟨(decipher delta key rounds v0 v1).v0, (decipher delta key rounds v0 v1).v1, 0#48⟩
      (decipher delta key rounds v0 v1) := by
    refine ⟨rfl, rfl, ?_⟩
    have hsum := decipher_sum_toNat delta key rounds v0 v1
    apply BitVec.eq_of_toNat_eq
    rw [BitVec.toNat_setWidth, BitVec.toNat_setWidth, hsum, BitVec.toNat_ofNat]
    omega
  have hundo : (encRound delta key)^[rounds.toNat] (decipher delta key rounds v0 v1) = ⟨v0, v1, decStart delta rounds⟩ :=
    (encRound_decRound delta key).iterate _ _
  exact hundo ▸ hstart.iterate (encRound_agree (.refl key)) rounds.toNat

/-- Registers put back into a state are put back by their numbers. -/
theorem withEngine_eq_withTriple (s : State) (e : Engine) : s.withEngine e = Reference.withTriple s e.triple := by
  simp only [State.withEngine, Reference.withTriple, Engine.triple, BitVec.ofNat_toNat, BitVec.setWidth_eq]

end Sys2Proof.Machine
end

section
/-!
SUPPORT. The working registers under two keys with the same low bits, command by command, and the key registers that keep every bit
(41_block_transform R74).
-/

namespace Sys2Proof.Machine

variable {key key' : Vector Word64 4}

/-- The key words as the reference reads them agree. -/
theorem keysAgree_of_keyAt_mod (h : ∀ n < 4, Reference.keyAt key' n % 2 ^ 40 = Reference.keyAt key n % 2 ^ 40) :
    KeysAgree key key' := by
  intro i
  apply BitVec.eq_of_toNat_eq
  have hi := h i i.isLt
  rw [keyAt_val, keyAt_val] at hi
  rw [low40, low40, BitVec.toNat_setWidth, BitVec.toNat_setWidth, hi]

/-- Bits 63:40 of the key have no part in an encipher: the block agrees, and the sum moves without the key. -/
theorem encipher_congr_key (hkey : KeysAgree key key') (delta : Val40) (rounds : BitVec 32) (v0 v1 : Val40) :
    encipher delta key rounds v0 v1 = encipher delta key' rounds v0 v1 := by
  have hstart : Engine.Agree ⟨v0, v1, 0#48⟩ ⟨v0, v1, 0#48⟩ := ⟨rfl, rfl, rfl⟩
  obtain ⟨hv0, hv1, -⟩ := hstart.iterate (encRound_agree (delta := delta) hkey) rounds.toNat
  rw [encipher, encipher, Engine.mk.injEq, iterate_encRound_sum, iterate_encRound_sum]
  exact ⟨hv0, hv1, rfl⟩

/-- Bits 63:40 of the key have no part in a decipher. -/
theorem decipher_congr_key (hkey : KeysAgree key key') (delta : Val40) (rounds : BitVec 32) (v0 v1 : Val40) :
    decipher delta key rounds v0 v1 = decipher delta key' rounds v0 v1 := by
  have hstart : Engine.Agree ⟨v0, v1, decStart delta rounds⟩ ⟨v0, v1, decStart delta rounds⟩ := ⟨rfl, rfl, rfl⟩
  obtain ⟨hv0, hv1, -⟩ := hstart.iterate (decRound_agree (delta := delta) hkey) rounds.toNat
  rw [decipher, decipher, Engine.mk.injEq, iterate_decRound_sum, iterate_decRound_sum]
  exact ⟨hv0, hv1, rfl⟩

/-- Deciphering blocks with a key that agrees leaves that key in the state, and all else the same. -/
theorem foldl_decipherBlock_withKey (l : List (Fin 7)) {s : State} (hkey : KeysAgree s.key key') :
    l.foldl decipherBlock { s with key := key' } = { l.foldl decipherBlock s with key := key' } := by
  induction l generalizing s with
  | nil => rfl
  | cons i l ih =>
    have hblock : decipherBlock { s with key := key' } i = { decipherBlock s i with key := key' } := by
      simp only [decipherBlock, ← decipher_congr_key hkey]
      rfl
    rw [List.foldl_cons, hblock, List.foldl_cons]
    exact ih hkey

/-- The working registers of a state. -/
def State.engine (s : State) : Engine := { v0 := s.v0, v1 := s.v1, sum := s.sum }

/-- The operation of `DCH` leaves the same working registers under keys that agree. -/
theorem decryptChain_engine_congr_key {s : State} (hkey : KeysAgree s.key key') :
    (decryptChain { s with key := key' }).engine = (decryptChain s).engine := by
  have hchain : decryptChain { s with key := key' } = { decryptChain s with key := key' } := foldl_decipherBlock_withKey _ hkey
  rw [hchain]
  rfl

/-- What a write to a cell makes of the working registers (R38). -/
def RegCell.writeEngine (v : Word64) (e : Engine) : RegCell → Engine
  | .v0 => { e with v0 := low40 v }
  | .v1 => { e with v1 := low40 v }
  | _ => e

/-- The working registers after a write are those before it with the cell's value. -/
theorem engine_of_writeCell {s t : State} {v : Word64} {c : RegCell} (h : writeCell s v c = .ok t) :
    t.engine = c.writeEngine v s.engine := by
  cases c <;> simp only [writeCell] at h
  case key | v0 | v1 | chw => cases h; rfl
  case rounds | nblk => split at h <;> cases h; rfl
  all_goals cases h

/-- A `RD` leaves the working registers (R61). -/
theorem engine_of_exec_rd {r : RegNo} {s t : State} (h : exec (.rd r) s = .next t) : t.engine = s.engine := by
  cases performed_of_exec h with
  | fault _ => rfl
  | read _ => rfl

/-- Every command leaves the same working registers under keys that agree (R74). -/
theorem exec_engine_congr_key (i : Instr) {s : State} (hkey : KeysAgree s.key key') :
    ∃ t t', exec i s = .next t ∧ exec i { s with key := key' } = .next t' ∧ t'.engine = t.engine := by
  cases i with
  | wr r v =>
    cases hcause : causeOf (encode (.wr r v)) with
    | some k => exact ⟨_, _, exec_wr_of_causeOf_some hcause s, exec_wr_of_causeOf_some hcause _, rfl⟩
    | none =>
      obtain ⟨c, u, hc, hu, hexec⟩ := exec_wr_of_causeOf_none hcause s
      obtain ⟨c', u', hc', hu', hexec'⟩ := exec_wr_of_causeOf_none hcause { s with key := key' }
      obtain rfl := Option.some.inj (hc.symm.trans hc')
      exact ⟨_, _, hexec, hexec', (engine_of_writeCell hu').trans (engine_of_writeCell hu).symm⟩
  | rd r =>
    obtain ⟨t, ht⟩ := exec_next (.rd r) s
    obtain ⟨t', ht'⟩ := exec_next (.rd r) { s with key := key' }
    exact ⟨t, t', ht, ht', (engine_of_exec_rd ht').trans (engine_of_exec_rd ht).symm⟩
  | enc => exact ⟨_, _, rfl, rfl, (encipher_congr_key hkey _ _ _ _).symm⟩
  | dec => exact ⟨_, _, rfl, rfl, (decipher_congr_key hkey _ _ _ _).symm⟩
  | dch => exact ⟨_, _, rfl, rfl, decryptChain_engine_congr_key hkey⟩
  | run => exact ⟨_, _, rfl, rfl, decryptChain_engine_congr_key hkey⟩
  | _ => exact ⟨_, _, rfl, rfl, rfl⟩

/-- The numbers 0 to 3 name the key words (R26). -/
theorem regCell_key (i : Fin 4) : regCell (BitVec.ofNat 8 i) = some (.key i) := by
  revert i
  decide

/-- A `WR` of a key word stores all 64 bits (R15, R38). -/
theorem exec_wr_key (s : State) (i : Fin 4) (v : Word64) :
    exec (.wr (BitVec.ofNat 8 i) v) s = .next { s with key := s.key.set i v }.completed := by
  simp only [exec, execWr, regWrite, regCell_key, writeCell]

/-- A `RD` of a key word answers all 64 bits (R15, R37). -/
theorem exec_rd_key {s : State} {i : Fin 4} {v : Word64} (h : s.key[i] = v) :
    exec (.rd (BitVec.ofNat 8 i)) s = .next (Reference.answered s v false) := by
  subst h
  simp only [exec, execRd, regRead, regCell_key, readCell, State.respond]

end Sys2Proof.Machine
end

section
/-!
SUPPORT. The chain, word by word: which words deciphering a list of blocks writes, and with what (42_chain_decrypt R76, R78).
-/

namespace Sys2Proof.Machine

/-- A word of the engine's block as the chain stores it, zero-extended (R76). -/
def Engine.word (e : Engine) : Fin 2 → Word64
  | 0 => e.v0.setWidth 64
  | 1 => e.v1.setWidth 64

/-- What a decipher of block `i` leaves, from the low 40 bits of its words (R76). -/
def State.blockDeciphered (s : State) (i : Fin 7) : Engine :=
  decipher s.cfg.delta s.key s.rounds (low40 s.chw[chainIx i 0]) (low40 s.chw[chainIx i 1])

/-- No two words of the chain share a place (R21). -/
theorem chainIx_inj {i j : Fin 7} {a b : Fin 2} : chainIx i a = chainIx j b ↔ i = j ∧ a = b := by
  simp only [chainIx, Fin.ext_iff]
  omega

/-- Deciphering a block writes its two words and no other (R76). -/
theorem decipherBlock_chw (s : State) (i j : Fin 7) (wd : Fin 2) :
    (decipherBlock s i).chw[chainIx j wd] = if j = i then (s.blockDeciphered i).word wd else s.chw[chainIx j wd] := by
  have hset : (decipherBlock s i).chw[chainIx j wd] =
      if chainIx i 1 = chainIx j wd then (s.blockDeciphered i).word 1
      else if chainIx i 0 = chainIx j wd then (s.blockDeciphered i).word 0 else s.chw[chainIx j wd] := by
    simp only [decipherBlock, Fin.getElem_fin, Vector.getElem_set, Fin.val_inj]
    rfl
  rw [hset]
  obtain rfl | hj := eq_or_ne j i
  · fin_cases wd <;> simp [chainIx_inj]
  · simp [chainIx_inj, hj, hj.symm]

/-- Deciphering a block leaves what a decipher makes of another (R78). -/
theorem blockDeciphered_decipherBlock (s : State) {i j : Fin 7} (h : j ≠ i) :
    (decipherBlock s i).blockDeciphered j = s.blockDeciphered j := by
  obtain ⟨hkey, hrounds, -, -, -, hcfg, -, -⟩ := decipherBlock_frame s i
  rw [State.blockDeciphered, decipherBlock_chw, decipherBlock_chw, if_neg h, if_neg h, hkey, hrounds, hcfg]
  rfl

/-- Deciphering blocks one after another deciphers each from its own words, and writes no other (R76, R78). -/
theorem foldl_decipherBlock_chw {l : List (Fin 7)} (hl : l.Nodup) (s : State) (j : Fin 7) (wd : Fin 2) :
    (l.foldl decipherBlock s).chw[chainIx j wd] = if j ∈ l then (s.blockDeciphered j).word wd else s.chw[chainIx j wd] := by
  induction l generalizing s with
  | nil => simp
  | cons i l ih =>
    obtain ⟨hi, hl⟩ := List.nodup_cons.1 hl
    rw [List.foldl_cons, ih hl, decipherBlock_chw]
    obtain rfl | hj := eq_or_ne j i
    · rw [if_neg hi, if_pos rfl, if_pos List.mem_cons_self]
    · simp only [List.mem_cons, hj, false_or, if_false, blockDeciphered_decipherBlock s hj]

/-- The operation of `DCH` deciphers the blocks before the root, and writes no other word (R76). -/
theorem decryptChain_chw (s : State) (j : Fin 7) (wd : Fin 2) :
    (decryptChain s).chw[chainIx j wd] =
      if j.val + 1 < s.nblk.toNat then (s.blockDeciphered j).word wd else s.chw[chainIx j wd] := by
  have hnodup : (blocksBelow (s.nblk.toNat - 1)).reverse.Nodup :=
    List.nodup_reverse.2 (List.Nodup.filter _ (by decide))
  rw [decryptChain, foldl_decipherBlock_chw hnodup]
  simp only [List.mem_reverse, mem_blocksBelow, Nat.lt_sub_iff_add_lt]

/-- The words of a deciphered block are the reference's numbers (R70, R76). -/
theorem State.blockDeciphered_triple (s : State) (i : Fin 7) :
    (s.blockDeciphered i).triple =
      Reference.decTripleOf s (s.chw[chainIx i 0].toNat % 2 ^ 40) (s.chw[chainIx i 1].toNat % 2 ^ 40) := by
  rw [State.blockDeciphered, decipher_triple, low40, low40, BitVec.toNat_setWidth, BitVec.toNat_setWidth]
  rfl

/-- A word of the chain by its block and its place in the block (R21). -/
theorem chainWord_chainIx (s : State) (i : Fin 7) (wd : Fin 2) :
    Reference.chainWord s (chainIx i wd) = s.chw[chainIx i wd].toNat := by
  simp [Reference.chainWord]

/-- What the operation of `DCH` does not change (R76). -/
theorem decryptChain_eq (s : State) :
    decryptChain s =
      { s with
        v0 := (decryptChain s).v0, v1 := (decryptChain s).v1, sum := (decryptChain s).sum, chw := (decryptChain s).chw } := by
  obtain ⟨hkey, hrounds, hnblk, hstatus, hout, hcfg, hcmds, hresps⟩ := decryptChain_frame s
  rw [← hkey, ← hrounds, ← hnblk, ← hstatus, ← hout, ← hcfg, ← hcmds, ← hresps]

/-- The operation of `DCH` leaves in a block before the root what `DEC` gives of its low 40 bits (R70, R76). -/
theorem chainWord_decryptChain_of_lt (s : State) {i : Nat} (hi : i + 1 < s.nblk.toNat) :
    let d := Reference.decTripleOf s (Reference.chainWord s (2 * i) % 2 ^ 40) (Reference.chainWord s (2 * i + 1) % 2 ^ 40)
    Reference.chainWord (decryptChain s) (2 * i) = d.1 ∧ Reference.chainWord (decryptChain s) (2 * i + 1) = d.2.1 := by
  have hnblk := s.nblk.isLt
  obtain ⟨j, rfl⟩ : ∃ j : Fin 7, j.val = i := ⟨⟨i, by omega⟩, rfl⟩
  have h0 (u : State) : Reference.chainWord u (2 * j) = u.chw[chainIx j 0].toNat := chainWord_chainIx u j 0
  have h1 (u : State) : Reference.chainWord u (2 * j + 1) = u.chw[chainIx j 1].toNat := chainWord_chainIx u j 1
  intro d
  have hd : (s.blockDeciphered j).triple = d := by rw [s.blockDeciphered_triple, ← h0, ← h1]
  rw [h0, h1, decryptChain_chw, decryptChain_chw, if_pos hi, if_pos hi, ← hd]
  exact ⟨BitVec.toNat_setWidth_of_le (by decide), BitVec.toNat_setWidth_of_le (by decide)⟩

/-- The operation of `DCH` leaves the words from the root on (R76, R77). -/
theorem chainWord_decryptChain_of_le (s : State) {k : Nat} (hk : 2 * s.nblk.toNat ≤ k + 2) :
    Reference.chainWord (decryptChain s) k = Reference.chainWord s k := by
  obtain hk14 | hk14 : k < 14 ∨ 14 ≤ k := by omega
  · have hix : k = chainIx ⟨k / 2, by omega⟩ ⟨k % 2, by omega⟩ := (Nat.div_add_mod k 2).symm
    rw [hix, chainWord_chainIx, chainWord_chainIx, decryptChain_chw, if_neg (by simp only; omega)]
  · simp [Reference.chainWord, hk14]

end Sys2Proof.Machine
end

section
/-!
The statements of 41_block_transform, and the one of 42_chain_decrypt on what `DCH` makes of each block.
-/

namespace Sys2Proof.Proofs

open Sys2Proof.Machine

/-- Settles O21: each operation on words is the operation on numbers with its mask. -/
theorem roundFunctionIsTheStatedArithmetic : Obligations.RoundFunctionIsTheStatedArithmetic := roundF_toNat

/-- Settles O22: both functions are their arithmetic, which agrees modulo `2^40`. -/
theorem wideRoundFunctionAgreesInFortyBits : Obligations.WideRoundFunctionAgreesInFortyBits := by
  intro x s k
  refine ⟨roundF64_toNat x s k, BitVec.eq_of_toNat_eq ?_⟩
  rw [BitVec.toNat_setWidth, roundF64_toNat, roundF_toNat, BitVec.toNat_setWidth, f64_mod]

/-- Settles O23: cutting the block to 40 bits takes each wide round to the round of R67 or R68, so it may wait until after all. -/
theorem wideMachineGivesTheSameBlock : Obligations.WideMachineGivesTheSameBlock := by
  intro s a b wideEnc wideDec
  have henc : (encipher s.cfg.delta s.key s.rounds (a.setWidth 40) (b.setWidth 40)).triple = lowBlock wideEnc := by
    rw [encipher_triple, lowBlock_repeatTimes (lowBlock_encRound64 _ _)]
    simp only [lowBlock, BitVec.toNat_setWidth]
  have hdec : (decipher s.cfg.delta s.key s.rounds (a.setWidth 40) (b.setWidth 40)).triple = lowBlock wideDec := by
    rw [decipher_triple, lowBlock_repeatTimes (lowBlock_decRound64 _ _)]
    simp only [lowBlock, BitVec.toNat_setWidth]
  exact ⟨_, _, exec_enc _, exec_dec _, congrArg (·.1) henc, congrArg (·.2.1) henc, congrArg (·.1) hdec, congrArg (·.2.1) hdec⟩

/-- Settles O24: the rounds of the model are the reference's, and only the working registers are put back. -/
theorem encRunsForwardRoundsFromZero : Obligations.EncRunsForwardRoundsFromZero := by
  intro s
  rw [exec_enc, completed_eq_answered, withEngine_eq_withTriple, ← State.enciphered_triple, State.enciphered]

/-- Settles O25: the rounds of the model are the reference's, and only the working registers are put back. -/
theorem decRunsInverseRoundsFromMaskedSum : Obligations.DecRunsInverseRoundsFromMaskedSum := by
  intro s
  rw [exec_dec, completed_eq_answered, withEngine_eq_withTriple, ← State.deciphered_triple, State.deciphered]

/-- Settles O26: an inverse round sees bits 39:0 of the sum alone, and from the sum itself it undoes the forward round. -/
theorem inverseRoundUndoesForwardRound : Obligations.InverseRoundUndoesForwardRound := by
  intro delta key e s hs
  have hagree : Engine.Agree { encRound delta key e with sum := s } (encRound delta key e) := ⟨rfl, rfl, hs⟩
  obtain ⟨hv0, hv1, hsum⟩ := decRound_agree (delta := delta) (.refl key) hagree
  rw [decRound_encRound delta key e] at hv0 hv1 hsum
  exact ⟨hv0, hv1, hsum⟩

/-- Settles O27: a decipher undoes an encipher on the block and an encipher a decipher, and neither writes the key or `ROUNDS`. -/
theorem encAndDecUndoEachOther : Obligations.EncAndDecUndoEachOther := by
  intro s
  have hdec := decipher_encipher s.cfg.delta s.key s.rounds s.v0 s.v1
  have henc := encipher_decipher s.cfg.delta s.key s.rounds s.v0 s.v1
  exact ⟨⟨_, _, exec_enc s, exec_dec _, hdec.v0, hdec.v1⟩, _, _, exec_dec s, exec_enc _, henc.v0, henc.v1⟩

/-- Settles O28: no round is run, and the sum a decipher starts from is zero; a `WR` cuts its value to the register. -/
theorem zeroRoundsLeaveTheBlock : Obligations.ZeroRoundsLeaveTheBlock := by
  intro s
  refine ⟨fun hrounds => ?_, fun v => ⟨rfl, rfl⟩⟩
  have henc : encipher s.cfg.delta s.key s.rounds s.v0 s.v1 = ⟨s.v0, s.v1, 0#48⟩ := by
    rw [hrounds]
    rfl
  have hdec : decipher s.cfg.delta s.key s.rounds s.v0 s.v1 = ⟨s.v0, s.v1, 0#48⟩ := by
    rw [hrounds]
    rfl
  rw [exec_enc, exec_dec, henc, hdec]
  exact ⟨rfl, rfl⟩

/-- Settles O29: each command leaves the same working registers under keys that agree; a key register is written and read whole. -/
theorem highKeyBitsNeverMatter : Obligations.HighKeyBitsNeverMatter := by
  refine ⟨fun i s key' h => ?_, fun s n v hn => ?_⟩
  · obtain ⟨t, t', ht, ht', hengine⟩ := exec_engine_congr_key i (keysAgree_of_keyAt_mod h)
    exact ⟨t, t', ht, ht', congrArg Engine.v0 hengine, congrArg Engine.v1 hengine, congrArg Engine.sum hengine⟩
  · have hset : (s.key.set n v)[n] = v := Vector.getElem_set_self hn
    exact ⟨_, exec_wr_key s ⟨n, hn⟩ v, (keyAt_val _ ⟨n, hn⟩).trans (congrArg BitVec.toNat hset),
      exec_rd_key (i := ⟨n, hn⟩) hset⟩

/-- Settles O30: the sums are closed forms in `P = DELTA * ROUNDS`. -/
theorem sumAfterEncAndDec : Obligations.SumAfterEncAndDec := by
  intro s p
  have henc : _ = p % 2 ^ 48 := encipher_sum_toNat s.cfg.delta s.key s.rounds s.v0 s.v1
  have hdec : _ = (2 ^ 48 - p % 2 ^ 48 + p % 2 ^ 40) % 2 ^ 48 := decipher_sum_toNat s.cfg.delta s.key s.rounds s.v0 s.v1
  refine ⟨_, _, exec_enc s, exec_dec s, henc, ?_⟩
  rw [State.completed_sum, State.withEngine_sum, hdec]
  clear_value p
  omega

/-- Settles O33: each block before the root is deciphered once, from its own words, and nothing else of the chain is written. -/
theorem dchDeciphersEveryBlockBeforeTheRoot : Obligations.DchDeciphersEveryBlockBeforeTheRoot := by
  intro s
  exact ⟨_, rfl, congrArg State.completed (decryptChain_eq s), fun i hi => chainWord_decryptChain_of_lt s hi,
    fun k hk => chainWord_decryptChain_of_le s hk⟩

end Sys2Proof.Proofs
end

section
/-!
SUPPORT. What `DCH` makes of the chain as a whole: the short chains it leaves, the block it deciphers last, the independence of
the blocks and the words it writes (42_chain_decrypt R76 to R79).
-/

namespace Sys2Proof.Machine

/-- What `DCH` leaves (R76). -/
theorem exec_dch (s : State) : exec .dch s = .next (decryptChain s).completed := rfl

/-- A chain of no block or one has no block before the root (R77). -/
theorem decryptChain_of_le_one {s : State} (h : s.nblk.toNat ≤ 1) : decryptChain s = s := by
  rw [decryptChain, Nat.sub_eq_zero_of_le h]
  rfl

/-! ### The block deciphered last (R76, R78) -/

/-- Block 0 is the first of the blocks below any `n` but zero, and stands there once. -/
theorem blocksBelow_eq_zero_cons {n : Nat} (h : 0 < n) : ∃ l, blocksBelow n = 0 :: l ∧ 0 ∉ l :=
  ⟨_, List.filter_cons_of_pos (decide_eq_true h), fun hmem => absurd (List.mem_of_mem_filter hmem) (by decide)⟩

/-- Deciphering blocks leaves what a decipher makes of any other (R78). -/
theorem blockDeciphered_foldl_decipherBlock {l : List (Fin 7)} {j : Fin 7} (hj : j ∉ l) (s : State) :
    (l.foldl decipherBlock s).blockDeciphered j = s.blockDeciphered j := by
  induction l generalizing s with
  | nil => rfl
  | cons i l ih =>
    obtain ⟨hne, hl⟩ := List.ne_and_not_mem_of_not_mem_cons hj
    rw [List.foldl_cons, ih hl, blockDeciphered_decipherBlock s hne]

/-- Deciphering a block leaves its decipher in the working registers (R76). -/
theorem decipherBlock_engine (s : State) (i : Fin 7) : (decipherBlock s i).engine = s.blockDeciphered i := rfl

/-- `DCH` deciphers block 0 last, from words that no earlier turn has written (R76, R78). -/
theorem decryptChain_engine {s : State} (h : 2 ≤ s.nblk.toNat) : (decryptChain s).engine = s.blockDeciphered 0 := by
  obtain ⟨l, hblocks, hl⟩ := blocksBelow_eq_zero_cons (Nat.sub_pos_of_lt h)
  rw [decryptChain, hblocks, List.reverse_cons, List.foldl_concat, decipherBlock_engine,
    blockDeciphered_foldl_decipherBlock (by rwa [List.mem_reverse])]

/-- The working registers after `DCH` are what `DEC` leaves of the low 40 bits of block 0 (R76). -/
theorem decryptChain_triple {s : State} (h : 2 ≤ s.nblk.toNat) :
    (decryptChain s).engine.triple =
      Reference.decTripleOf s (Reference.chainWord s 0 % 2 ^ 40) (Reference.chainWord s 1 % 2 ^ 40) := by
  rw [decryptChain_engine h, s.blockDeciphered_triple, ← chainWord_chainIx, ← chainWord_chainIx]
  rfl

/-! ### Each block from itself alone (R78) -/

/-- Chains that agree in a block have the same block after `DCH`. -/
theorem chainWord_decryptChain_congr (s : State) (chw' : Vector Word64 14) (i : Nat)
    (h0 : Reference.chainWord { s with chw := chw' } (2 * i) = Reference.chainWord s (2 * i))
    (h1 : Reference.chainWord { s with chw := chw' } (2 * i + 1) = Reference.chainWord s (2 * i + 1)) :
    Reference.chainWord (decryptChain { s with chw := chw' }) (2 * i) = Reference.chainWord (decryptChain s) (2 * i) ∧
    Reference.chainWord (decryptChain { s with chw := chw' }) (2 * i + 1) =
      Reference.chainWord (decryptChain s) (2 * i + 1) := by
  obtain hi | hi := Nat.lt_or_ge (i + 1) s.nblk.toNat
  · obtain ⟨ht0, ht1⟩ := chainWord_decryptChain_of_lt s hi
    obtain ⟨ht0', ht1'⟩ := chainWord_decryptChain_of_lt { s with chw := chw' } hi
    rw [ht0, ht1, ht0', ht1', h0, h1]
    exact ⟨rfl, rfl⟩
  · have hk0 : 2 * s.nblk.toNat ≤ 2 * i + 2 := by omega
    have hk1 : 2 * s.nblk.toNat ≤ 2 * i + 1 + 2 := by omega
    rw [chainWord_decryptChain_of_le s hk0, chainWord_decryptChain_of_le s hk1,
      chainWord_decryptChain_of_le { s with chw := chw' } hk0, chainWord_decryptChain_of_le { s with chw := chw' } hk1]
    exact ⟨h0, h1⟩

/-! ### The words written (R76, R81, R108) -/

/-- Every index below 14 is a word of a block (R21). -/
theorem exists_chainIx {k : Nat} (hk : k < 14) : ∃ (j : Fin 7) (wd : Fin 2), (chainIx j wd).val = k :=
  ⟨⟨k / 2, by omega⟩, ⟨k % 2, by omega⟩, Nat.div_add_mod k 2⟩

/-- A word the engine stores has bits 63:40 zero (R76). -/
theorem Engine.word_toNat_lt (e : Engine) (wd : Fin 2) : (e.word wd).toNat < 2 ^ 40 := by
  fin_cases wd <;> exact (BitVec.toNat_setWidth_of_le (by decide)).trans_lt (BitVec.isLt _)

/-- With no rounds, the word stored is the word loaded without bits 63:40 (R73, R108). -/
theorem State.blockDeciphered_word_of_rounds_zero {s : State} (h : s.rounds = 0#32) (j : Fin 7) (wd : Fin 2) :
    (s.blockDeciphered j).word wd = (low40 s.chw[chainIx j wd]).setWidth 64 := by
  rw [State.blockDeciphered, h]
  fin_cases wd <;> rfl

/-- Every word before the root is one that the decipher of its block stores (R76). -/
theorem chainWord_decryptChain_eq_word (s : State) {k : Nat} (hk : k + 2 < 2 * s.nblk.toNat) :
    ∃ (j : Fin 7) (wd : Fin 2), (chainIx j wd).val = k ∧
      Reference.chainWord (decryptChain s) k = ((s.blockDeciphered j).word wd).toNat := by
  have hnblk := s.nblk.isLt
  obtain ⟨j, wd, rfl⟩ := exists_chainIx (show k < 14 by omega)
  have hj : j.val + 1 < s.nblk.toNat := by
    simp only [chainIx] at hk
    omega
  exact ⟨j, wd, rfl, by rw [chainWord_chainIx, decryptChain_chw, if_pos hj]⟩

/-- The operation of `DCH` leaves words before the root with bits 63:40 zero (R76, R81). -/
theorem chainWord_decryptChain_lt (s : State) {k : Nat} (hk : k + 2 < 2 * s.nblk.toNat) :
    Reference.chainWord (decryptChain s) k < 2 ^ 40 := by
  obtain ⟨j, wd, -, hword⟩ := chainWord_decryptChain_eq_word s hk
  exact hword ▸ Engine.word_toNat_lt _ wd

/-- With no rounds, the operation of `DCH` leaves the low 40 bits of the words before the root (R108). -/
theorem chainWord_decryptChain_of_rounds_zero {s : State} (h : s.rounds = 0#32) {k : Nat} (hk : k + 2 < 2 * s.nblk.toNat) :
    Reference.chainWord (decryptChain s) k = Reference.chainWord s k % 2 ^ 40 := by
  obtain ⟨j, wd, rfl, hword⟩ := chainWord_decryptChain_eq_word s hk
  rw [hword, State.blockDeciphered_word_of_rounds_zero h, BitVec.toNat_setWidth_of_le (by decide), low40, BitVec.toNat_setWidth,
    chainWord_chainIx]

/-! ### A second `DCH` (R79) -/

/-- `DCH` leaves the key, `ROUNDS` and the configuration, so `DEC` of any block as it was (R76). -/
theorem decTripleOf_decryptChain (s : State) (a b : Nat) :
    Reference.decTripleOf (decryptChain s) a b = Reference.decTripleOf s a b := by
  obtain ⟨hkey, hrounds, -, -, -, hcfg, -, -⟩ := decryptChain_frame s
  rw [Reference.decTripleOf, hkey, hrounds, hcfg, Reference.decTripleOf]

/-- The operation of `DCH` neither reads nor changes the answers given (R47). -/
theorem decryptChain_completed (s : State) : decryptChain s.completed = (decryptChain s).completed :=
  List.foldl_hom State.completed fun _ _ => rfl

/-- The operation of `DCH` twice deciphers a block before the root twice: the words of the first are loaded whole (R76, R79). -/
theorem chainWord_decryptChain_decryptChain (s : State) {i : Nat} (hi : i + 1 < s.nblk.toNat) :
    let d := Reference.decTripleOf s (Reference.chainWord s (2 * i) % 2 ^ 40) (Reference.chainWord s (2 * i + 1) % 2 ^ 40)
    let d' := Reference.decTripleOf s d.1 d.2.1
    Reference.chainWord (decryptChain (decryptChain s)) (2 * i) = d'.1 ∧
    Reference.chainWord (decryptChain (decryptChain s)) (2 * i + 1) = d'.2.1 := by
  intro d d'
  obtain ⟨ht0, ht1⟩ : _ = d.1 ∧ _ = d.2.1 := chainWord_decryptChain_of_lt s hi
  have hlt0 := chainWord_decryptChain_lt s (k := 2 * i) (by omega)
  have hlt1 := chainWord_decryptChain_lt s (k := 2 * i + 1) (by omega)
  obtain ⟨-, -, hnblk, -⟩ := decryptChain_frame s
  have hsecond := chainWord_decryptChain_of_lt (decryptChain s) (hnblk ▸ hi)
  rwa [Nat.mod_eq_of_lt hlt0, Nat.mod_eq_of_lt hlt1, ht0, ht1, decTripleOf_decryptChain] at hsecond

end Sys2Proof.Machine
end

section
/-!
The statements of 42_chain_decrypt beyond what `DCH` makes of each block.
-/

namespace Sys2Proof.Proofs

open Sys2Proof.Machine

/-- Settles O34: a short chain has no block before the root, and `DCH` writes no word from the root on. -/
theorem dchKeepsTheRootAndShortChains : Obligations.DchKeepsTheRootAndShortChains := by
  intro s
  refine ⟨fun hshort => ?_, fun hroot => ⟨_, exec_dch s, chainWord_decryptChain_of_le s (by omega),
    chainWord_decryptChain_of_le s (by omega)⟩⟩
  rw [exec_dch, decryptChain_of_le_one hshort, completed_eq_answered]

/-- Settles O35: block 0 is deciphered last, and its decipher is what the chain holds of it. -/
theorem dchLeavesBlockZeroInTheWorkingRegisters : Obligations.DchLeavesBlockZeroInTheWorkingRegisters := by
  intro s h
  have hregs := decryptChain_triple h
  obtain ⟨hword0, hword1⟩ := chainWord_decryptChain_of_lt s (i := 0) h
  exact ⟨_, exec_dch s, hregs, (congrArg (·.1) hregs).trans hword0.symm, (congrArg (·.2.1) hregs).trans hword1.symm⟩

/-- Settles O36: a block before the root is the decipher of its own words, and any other is left as it is. -/
theorem dchTakesEachBlockFromItselfAlone : Obligations.DchTakesEachBlockFromItselfAlone := by
  intro s chw' i h0 h1
  exact ⟨_, _, exec_dch s, exec_dch _, chainWord_decryptChain_congr s chw' i h0 h1⟩

/-- Settles O37: a word written is 40 bits zero-extended, and no round changes it when `ROUNDS` is zero. -/
theorem dchClearsTheHighBytes : Obligations.DchClearsTheHighBytes := by
  intro s
  exact ⟨_, exec_dch s, fun _ hk =>
    ⟨chainWord_decryptChain_lt s hk, fun hrounds => chainWord_decryptChain_of_rounds_zero hrounds hk⟩⟩

/-- Settles O38: the first `DCH` leaves 40-bit words and the operands of a decipher, which the second takes. -/
theorem secondDchDeciphersAgain : Obligations.SecondDchDeciphersAgain := by
  intro s
  refine ⟨_, _, exec_dch s, exec_dch _, fun i hi => ?_⟩
  rw [decryptChain_completed]
  exact chainWord_decryptChain_decryptChain s hi

end Sys2Proof.Proofs
end

section
/-!
SUPPORT. What `REN` and `RUN` emit, as the reference's list of glyphs, and how long that list is (43_glyph_render R80 to R85).
-/

namespace Sys2Proof.Machine

/-! ### The serialiser is the reference's (R80 to R83) -/

/-- A byte of a word, by its number (R13, R33). -/
theorem byteOf_toNat (w : Word64) (j : Nat) : (byteOf w j).toNat = w.toNat / 256 ^ j % 256 := by
  rw [byteOf, BitVec.extractLsb'_toNat, Nat.shiftRight_eq_div_pow, pow_mul]
  rfl

/-- The glyph a byte of a word gives, or none for a zero byte (R80, R81). -/
def byteGlyph (gt : Vector Glyph 56) (b : BitVec 8) : Option Glyph :=
  if b = 0#8 then none else some (glyphOf gt b)

/-- The reference chooses the glyph of a byte alike: none, the table's entry or the sentinel (R80). -/
theorem byteGlyph_toList (gt : Vector Glyph 56) (b : BitVec 8) :
    (byteGlyph gt b).toList =
      if b.toNat = 0 then [] else if b.toNat < 56 then gt.toList[b.toNat]?.toList else [0x3F#21] := by
  have hzero : b = 0#8 ↔ b.toNat = 0 := BitVec.toNat_inj.symm
  obtain hb | hb := Nat.lt_or_ge b.toNat 56
  · simp [byteGlyph, hzero, glyphOf, hb, apply_ite Option.toList]
  · simp [byteGlyph, hzero, glyphOf, Nat.not_lt.2 hb, Config.sentinel, apply_ite Option.toList]

/-- The glyphs of the low `n` bytes of a word are those of the bytes that are not zero, from byte `n-1` down (R81). -/
theorem wordGlyphs_eq_flatMap (gt : Vector Glyph 56) (w : Word64) (n : Nat) :
    Reference.wordGlyphs gt w.toNat n = (List.range n).reverse.flatMap fun j => (byteGlyph gt (byteOf w j)).toList := by
  induction n with
  | zero => rfl
  | succ n ih =>
    rw [List.range_succ, List.reverse_concat, List.flatMap_cons, byteGlyph_toList, byteOf_toNat, ← ih, Reference.wordGlyphs]

/-- The glyphs of a word (R34, R81). -/
theorem glyphsOfWord_eq_wordGlyphs (gt : Vector Glyph 56) (w : Word64) :
    glyphsOfWord gt w = Reference.wordGlyphs gt w.toNat 8 := by
  rw [wordGlyphs_eq_flatMap, ← List.filterMap_eq_flatMap_toList]
  rfl

/-- The glyphs of a block: its first word, then its second (R81). -/
theorem glyphsOfBlock_eq_wordGlyphs (s : State) (i : Fin 7) :
    glyphsOfBlock s i = Reference.wordGlyphs s.cfg.gt (Reference.chainWord s (2 * i)) 8 ++
      Reference.wordGlyphs s.cfg.gt (Reference.chainWord s (2 * i + 1)) 8 := by
  rw [glyphsOfBlock, glyphsOfWord_eq_wordGlyphs, glyphsOfWord_eq_wordGlyphs, ← chainWord_chainIx, ← chainWord_chainIx]
  rfl

/-- The blocks up to and with block `i` are those below it and then it (R82). -/
theorem blocksBelow_succ (i : Fin 7) : blocksBelow (i + 1) = blocksBelow i ++ [i] :=
  (by decide : ∀ i : Fin 7, blocksBelow (i + 1) = blocksBelow i ++ [i]) i

/-- The glyphs of the blocks below `n`, in ascending order (R82). -/
theorem flatMap_glyphsOfBlock_eq_blockGlyphs (s : State) {n : Nat} (hn : n ≤ 7) :
    (blocksBelow n).flatMap (glyphsOfBlock s) = Reference.blockGlyphs s n := by
  induction n with
  | zero => rfl
  | succ n ih =>
    rw [blocksBelow_succ ⟨n, hn⟩, List.flatMap_append, ih (by omega), List.flatMap_singleton, glyphsOfBlock_eq_wordGlyphs,
      Reference.blockGlyphs, List.append_assoc]

/-- What one `REN` emits is what the reference emits (R82, R83). -/
theorem chainGlyphs_eq_renGlyphs (s : State) : chainGlyphs s = Reference.renGlyphs s := by
  rw [chainGlyphs, flatMap_glyphsOfBlock_eq_blockGlyphs s (Nat.le_of_lt_succ s.nblk.isLt)]
  rfl

/-! ### `REN` and `RUN` -/

/-- What `REN` leaves (R82). -/
theorem exec_ren (s : State) : exec .ren s = .next (renderChain s).completed := rfl

/-- What `RUN` leaves (R85). -/
theorem exec_run (s : State) : exec .run s = .next (renderChain (decryptChain s)).completed := rfl

/-- The operation of `REN` appends the reference's glyphs and changes nothing else (R82, R84). -/
theorem renderChain_eq (s : State) : renderChain s = { s with out := s.out ++ Reference.renGlyphs s } := by
  rw [renderChain, State.emit, chainGlyphs_eq_renGlyphs]

/-- `REN` neither reads nor changes what it has emitted and answered: after it the chain has the same glyphs (R84). -/
theorem chainGlyphs_renderChain_completed (s : State) : chainGlyphs (renderChain s).completed = chainGlyphs s := rfl

/-- `REN` neither reads nor changes a word of the chain (R84). -/
theorem chainWord_renderChain_completed (s : State) (k : Nat) :
    Reference.chainWord (renderChain s).completed k = Reference.chainWord s k := rfl

/-- What a decipher of the reference run computes (R70, R86). -/
theorem decTripleOf_powerOn (c : Config) (a b : Nat) :
    Reference.decTripleOf (State.powerOn c) a b =
      Reference.repeatTimes (Reference.decRound c.delta.toNat (Reference.keyAt c.keyRef)) 32
        (a, b, c.delta.toNat * 32 % 2 ^ 40) := rfl

/-- `RUN` appends to `OUT` the glyphs of the chain that `DCH` leaves (R85). -/
theorem renderChain_decryptChain_out (s : State) :
    (renderChain (decryptChain s)).out = s.out ++ Reference.renGlyphs (decryptChain s) := by
  obtain ⟨-, -, -, -, hout, -⟩ := decryptChain_frame s
  rw [renderChain_eq, hout]

/-! ### How many glyphs (R81, R111) -/

/-- `n` bytes give at most `n` glyphs. -/
theorem length_wordGlyphs_le (gt : Vector Glyph 56) (w n : Nat) : (Reference.wordGlyphs gt w n).length ≤ n := by
  induction n with
  | zero => rfl
  | succ n ih =>
    rw [Reference.wordGlyphs, List.length_append]
    split_ifs
    · simp only [List.length_nil]
      omega
    · have := Option.length_toList_le (o := gt.toList[w / 256 ^ n % 256]?)
      omega
    · simp only [List.length_singleton]
      omega

/-- Bytes above the highest that is not zero give no glyph (R80). -/
theorem wordGlyphs_of_lt (gt : Vector Glyph 56) {w k n : Nat} (hw : w < 256 ^ k) (hkn : k ≤ n) :
    Reference.wordGlyphs gt w n = Reference.wordGlyphs gt w k := by
  induction n, hkn using Nat.le_induction with
  | base => rfl
  | succ n hkn ih =>
    have hbyte : w / 256 ^ n = 0 := Nat.div_eq_of_lt (hw.trans_le (Nat.pow_le_pow_right (by decide) hkn))
    simp only [Reference.wordGlyphs, hbyte, ih, if_pos, List.nil_append]

/-- A word below `2^40` gives at most five glyphs (R81). -/
theorem length_wordGlyphs_le_five (gt : Vector Glyph 56) {w : Nat} (hw : w < 2 ^ 40) :
    (Reference.wordGlyphs gt w 8).length ≤ 5 :=
  wordGlyphs_of_lt gt (k := 5) (n := 8) hw (by decide) ▸ length_wordGlyphs_le gt w 5

/-- Blocks of words below `2^40` give at most ten glyphs each (R81). -/
theorem length_blockGlyphs_le {s : State} {n : Nat} (h : ∀ k < 2 * n, Reference.chainWord s k < 2 ^ 40) :
    (Reference.blockGlyphs s n).length ≤ 10 * n := by
  induction n with
  | zero => rfl
  | succ n ih =>
    have hbelow := ih fun k hk => h k (by omega)
    have hfirst := length_wordGlyphs_le_five s.cfg.gt (h (2 * n) (by omega))
    have hsecond := length_wordGlyphs_le_five s.cfg.gt (h (2 * n + 1) (by omega))
    simp only [Reference.blockGlyphs, List.length_append]
    omega

/-- After `DCH` the chain gives at most ten glyphs for each block before the root, sixteen for the root, and the newline. -/
theorem length_renGlyphs_decryptChain_le {s : State} (h : 1 ≤ s.nblk.toNat) :
    (Reference.renGlyphs (decryptChain s)).length ≤ 10 * (s.nblk.toNat - 1) + 17 := by
  obtain ⟨-, -, hnblk, -⟩ := decryptChain_frame s
  obtain ⟨n, hn⟩ := Nat.exists_eq_add_of_le' h
  have hblocks : (Reference.blockGlyphs (decryptChain s) n).length ≤ 10 * n :=
    length_blockGlyphs_le fun k hk => chainWord_decryptChain_lt s (by omega)
  have hroot0 := length_wordGlyphs_le (decryptChain s).cfg.gt (Reference.chainWord (decryptChain s) (2 * n)) 8
  have hroot1 := length_wordGlyphs_le (decryptChain s).cfg.gt (Reference.chainWord (decryptChain s) (2 * n + 1)) 8
  simp only [Reference.renGlyphs, hnblk, hn, Reference.blockGlyphs, List.length_append, List.length_singleton]
  omega

end Sys2Proof.Machine
end

section
/-!
The statements of 43_glyph_render.
-/

namespace Sys2Proof.Proofs

open Sys2Proof.Machine

/-- Settles O39: the model's serialiser lists the reference's glyphs, and emitting writes `OUT` alone. -/
theorem renAppendsTheGlyphsThenANewline : Obligations.RenAppendsTheGlyphsThenANewline := by
  intro s
  rw [exec_ren, renderChain_eq, completed_eq_answered]

/-- Settles O42: neither half reads the answers, so the one that `DCH` adds by itself is all that is to be left out. -/
theorem runIsDchThenRen : Obligations.RunIsDchThenRen := by
  intro s
  obtain ⟨-, -, -, -, -, -, -, hresps⟩ := decryptChain_frame s
  refine ⟨_, _, exec_dch s, exec_ren _, ?_⟩
  rw [exec_run, ← hresps]
  rfl

/-- Settles O43: the blocks before the root hold 40-bit words, and the newline comes last. -/
theorem runEmitsAtMostTenPerDecipheredBlock : Obligations.RunEmitsAtMostTenPerDecipheredBlock := by
  intro s h
  exact ⟨_, _, exec_run s, renderChain_decryptChain_out s, length_renGlyphs_decryptChain_le h, List.getLast?_concat⟩

/-- Settles O44: the one step is `RUN` at the power-on state, whose seven blocks `DCH` deciphers but for the root. -/
theorem referenceRunFromPowerOn : Obligations.ReferenceRunFromPowerOn := by
  intro c
  have hstep : step (Reference.issued (State.powerOn c) ⟨0x1400#16, 0#64⟩) = exec .run (State.powerOn c) :=
    step_of_decode rfl rfl
  have hnblk : (State.powerOn c).nblk.toNat = 7 := rfl
  have hglyphs : (renderChain (decryptChain (State.powerOn c))).out = Reference.renGlyphs (decryptChain (State.powerOn c)) :=
    (renderChain_decryptChain_out _).trans (List.nil_append _)
  obtain ⟨-, -, -, -, -, -, hcmds, hresps⟩ := decryptChain_frame (State.powerOn c)
  refine ⟨_, hstep.trans (exec_run _), ?_, ?_, ?_, ?_, fun i hi => ?_, ?_, ?_⟩
  · rw [State.completed_resps, renderChain, State.emit_resps, hresps]
    rfl
  · rw [State.completed_cmds, renderChain, State.emit_cmds, hcmds]
    rfl
  · rw [State.completed_out, hglyphs, ← chainGlyphs_eq_renGlyphs, ← chainGlyphs_eq_renGlyphs,
      chainGlyphs_renderChain_completed]
  · rw [State.completed_out, hglyphs]
    have hlength := length_renGlyphs_decryptChain_le (s := State.powerOn c) (by omega)
    rwa [hnblk] at hlength
  · rw [chainWord_renderChain_completed, chainWord_renderChain_completed, ← decTripleOf_powerOn]
    exact chainWord_decryptChain_of_lt _ (by omega)
  · rw [chainWord_renderChain_completed, chainWord_decryptChain_of_le _ (by omega)]
  · rw [chainWord_renderChain_completed, chainWord_decryptChain_of_le _ (by omega)]

/-- Settles O41: what the first `REN` appends and answers is no part of what the second renders. -/
theorem renTwiceEmitsTheSameTwice : Obligations.RenTwiceEmitsTheSameTwice := by
  intro s
  refine ⟨chainGlyphs s, exec_ren s, (exec_ren (renderChain s).completed).trans ?_⟩
  rw [renderChain, chainGlyphs_renderChain_completed]
  rfl

end Sys2Proof.Proofs
end

section
/-!
`CLRE` and `RST` (44_system R87, R88): what each operation leaves, as the state it is, field by field.
-/

namespace Sys2Proof.Machine

/-- What `CLRE` leaves (R87). -/
theorem exec_clre (s : State) : exec .clre s = .next s.clearFault.completed := rfl

/-- What `RST` leaves (R88). -/
theorem exec_rst (s : State) : exec .rst s = .next s.restore.completed := rfl

/-- The operation of `CLRE` zeroes the three fields of `STATUS` and keeps the rest of the state (R25, R87). -/
theorem clearFault_eq (s : State) : s.clearFault = { s with status := { err := false, cause := 0#4, fcmd := 0#16 } } := rfl

/-- The operation of `RST` takes each register from the reset values, with `ROUNDS` 32 and `NBLK` 7, and the rest from `s` (R27, R88). -/
theorem restore_eq (s : State) :
    s.restore =
      { key := s.cfg.keyRef, v0 := 0#40, v1 := 0#40, sum := 0#48, rounds := 32#32, nblk := 7#3, chw := s.cfg.chainRef,
        status := { err := false, cause := 0#4, fcmd := 0#16 }, out := s.out, cfg := s.cfg, cmds := s.cmds, resps := s.resps } :=
  rfl

end Sys2Proof.Machine
end

section
/-!
The statements of 44_system.
-/

namespace Sys2Proof.Proofs

open Sys2Proof.Machine

/-- Settles O45: clearing writes `STATUS` alone, and completing adds the answer. -/
theorem clreClearsStatusOnly : Obligations.ClreClearsStatusOnly := by
  intro s
  rw [exec_clre, completed_eq_answered, clearFault_eq]

/-- Settles O46: the state restored is the power-on state of the configuration, but for `OUT`, the stream and the answers. -/
theorem rstRestoresEveryRegister : Obligations.RstRestoresEveryRegister := by
  intro s
  rw [exec_rst, completed_eq_answered, restore_eq]

end Sys2Proof.Proofs
end

section
/-!
SUPPORT. Which check a command fails, by the instruction its word decodes to, and what the command does in either case
(60_exceptions R89 to R91).
-/

namespace Sys2Proof.Machine

/-! ### The check a command fails -/

/-- The opcode of an encoded word, as a quotient (R48). -/
theorem encode_cmd_toNat_div (i : Instr) : (encode i).cmd.toNat / 256 = i.opc.toNat := by
  rw [encode_cmd_toNat]
  omega

/-- Two commands of one word fail the same check unless the word is a `WR`, whose data alone are checked (R91). -/
theorem causeOf_congr {c c' : Command} (hcmd : c.cmd = c'.cmd) (hopc : c.cmd.toNat / 256 ≠ 1) : causeOf c = causeOf c' := by
  simp only [causeOf, ← hcmd, hopc, false_and]

/-- A command fails the check that the instruction it decodes to fails (R52, R91). -/
theorem causeOf_of_decode {c : Command} {i : Instr} (h : decode c = .ok i) : causeOf c = causeOf (encode i) := by
  have hcmd := encode_cmd_of_decode h
  have hopc := encode_cmd_toNat_div i
  cases i with
  | wr r d =>
    have hencode : encode (.wr r d) = c := congrArg₂ Command.mk hcmd (wdata_of_decode h)
    rw [hencode]
  | _ => exact (causeOf_congr hcmd (by simp [hopc, Instr.opc])).symm

/-- A command that neither reads nor writes a register by number fails no check (R91). -/
theorem causeOf_encode_of_opc {i : Instr} (hwr : i.opc.toNat ≠ 1) (hrd : i.opc.toNat ≠ 2) : causeOf (encode i) = none := by
  obtain ⟨hlegal, -, -⟩ := encodedWordIsLegal i
  simp only [causeOf, hlegal, encode_cmd_toNat_div, hwr, hrd, not_true_eq_false, false_or, false_and, if_false]

/-- A `RD` of a number that names a cell fails no check (R91). -/
theorem causeOf_rd_of_regCell {r : RegNo} {c : RegCell} (hc : regCell r = some c) : causeOf (encode (.rd r)) = none := by
  obtain ⟨hlegal, -, hreg⟩ := encodedWordIsLegal (.rd r)
  have hmapped : mappedNumber ((encode (.rd r)).cmd.toNat % 256) := by
    rw [← regField_toNat, hreg]
    exact toNat_of_regCell hc ▸ c.mappedNumber_number
  have hopc : (encode (.rd r)).cmd.toNat / 256 = 2 := encode_cmd_toNat_div _
  simp only [causeOf, hlegal, hopc, hmapped, OfNat.ofNat_ne_one, not_true_eq_false, and_false, false_and, if_false]

/-- What a command makes of a state is the fault of the check it fails, unless it fails none (R91). -/
theorem fault_or_causeOf_eq_none {i : Instr} {s t : State} (h : Performed s i t) :
    (∃ k, causeOf (encode i) = some k.code ∧ t = s.cmdFault k (encode i).cmd) ∨ causeOf (encode i) = none := by
  cases h with
  | fault hk => exact .inl ⟨_, hk, rfl⟩
  | write hc hu => exact .inr (causeOf_of_writeCell hc hu)
  | read hc => exact .inr (causeOf_rd_of_regCell hc)
  | _ => exact .inr (causeOf_encode_of_opc (by decide) (by decide))

/-! ### What a command does -/

/-- A command that fails a check takes the fault of that check (R90, R91). -/
theorem exec_of_causeOf_some {i : Instr} {k : BitVec 4} (h : causeOf (encode i) = some k) (s : State) :
    exec i s = .next (Reference.faulted s k (encode i).cmd) := by
  obtain ⟨t, ht⟩ := exec_next i s
  obtain ⟨k', hk', rfl⟩ | hnone := fault_or_causeOf_eq_none (performed_of_exec ht)
  · obtain rfl := Option.some.inj (hk'.symm.trans h)
    exact ht
  · cases hnone.symm.trans h

/-- A command that fails no check answers with `RERR = 0` (R47, R91). -/
theorem exec_of_causeOf_none {i : Instr} (h : causeOf (encode i) = none) (s : State) :
    ∃ t v, exec i s = .next t ∧ t.resps = s.resps ++ [{ rdata := v, rerr := false }] := by
  obtain ⟨t, ht⟩ := exec_next i s
  obtain ⟨k, hk, -⟩ | ⟨v, hresps, -⟩ := exec_answer ht
  · cases h.symm.trans hk
  · exact ⟨t, v, ht, hresps⟩

/-- A step with no command issued leaves the state (R99). -/
theorem step_of_cmds_eq_nil {s : State} (hs : s.cmds = []) : step s = .next s := by
  simp only [step, State.take, hs]

end Sys2Proof.Machine
end

section
/-!
The statements of 60_exceptions.
-/

namespace Sys2Proof.Proofs

open Sys2Proof.Machine

/-- Settles O11: a refused word fails the first check, and a decoded one does what its instruction does, by the check that fails. -/
theorem faultIsTheFirstFailedCheck : Obligations.FaultIsTheFirstFailedCheck := by
  intro s c
  cases hd : decode c with
  | error e =>
    rw [causeOf_of_decode_error hd]
    exact step_of_decode_error rfl hd
  | ok i =>
    have hstep : step (Reference.issued s c) = exec i s := step_of_decode rfl hd
    rw [hstep, causeOf_of_decode hd, ← encode_cmd_of_decode hd]
    cases hcause : causeOf (encode i) with
    | some k => exact exec_of_causeOf_some hcause s
    | none => exact exec_of_causeOf_none hcause s

/-- Settles O8: there is no command to take. -/
theorem stepWithNoCommandKeepsAllState : Obligations.StepWithNoCommandKeepsAllState :=
  fun _ => step_of_cmds_eq_nil

end Sys2Proof.Proofs
end
